-- ==== Sys2Proof/Word.lean ====
section
/-! DEFINITION. The word types of PPBLIT and the one arithmetic function every pitch uses. -/

namespace Sys2Proof

/-- A PPBLIT register: 32 bits, bit 0 least significant (R6, R8, R16). -/
abbrev Word := BitVec 32

/-- A byte, the unit of every memory access of PPBLIT (R33, R43). -/
abbrev Byte := BitVec 8

/-- `ceil_div(a, b)` on naturals (R9); used only with `b > 0`. -/
def ceilDiv (a b : Nat) : Nat := (a + b - 1) / b

end Sys2Proof
end

