-- ==== Sys2Proof/Config.lean ====
section
/-! DEFINITION. What one PPBLIT instantiation fixes (R6, R7, R44, R46) and the one free value the spec
leaves open (R120). A `Config` is plain data that State carries and no step changes, so that every claim
about a step holds for EVERY instantiation; `Config.freeByte` is opaque, so no claim can see its values. -/

namespace Sys2Proof

/-- Why a range of the platform's address space is not the plain memory that R44 and R46 assume. -/
inductive RegionKind where
  /-- an access there does not complete (R46) -/
  | noResponse
  /-- reads or writes there have side effects (R44) -/
  | sideEffects
  deriving DecidableEq, Repr

/-- A range of `len` bytes from `base`, addresses modulo 2^32 (R34), that is not plain memory. -/
structure Region where
  base : Word
  len  : Nat
  kind : RegionKind
  deriving DecidableEq, Repr

/-- The parameters R6 leaves OPEN, and the platform's exceptions to plain memory. -/
structure Config where
  /-- `REG_BASE`, the register window's address in the host's map (R6, R16; U2) -/
  regBase   : Word
  /-- `MAGIC_1BPP` (R6; U1) -/
  magic1bpp : Word
  /-- `MAGIC_2BPP`, required to differ from `MAGIC_1BPP` (R6, R7; U1) -/
  magic2bpp : Word
  /-- the ranges that are not plain memory; none is what R46 assumes (U7, U8) -/
  regions   : List Region
  deriving DecidableEq, Repr

/-- `REG_WINDOW`, the size of the register window in bytes (R6, R16). -/
def Config.regWindow : Nat := 0x100

/-- `HDR_SIZE`, the size of the image header in bytes (R6, R64). -/
def Config.hdrSize : Nat := 22

/-- The instantiation `State.reset` carries: the TEST values of 92_eei_decisions.md D40 for the magics,
base 0, and plain memory everywhere.
DESIGN CHOICE, unsafe (assumption 1): these are not claims about the hardware and no statement rests on
them. -/
def Config.testInstance : Config :=
  { regBase := 0x00000000#32, magic1bpp := 0x4D423150#32, magic2bpp := 0x4D423250#32, regions := [] }

/-- The free value of R120 (U9): what the `k`-th byte drawn by a reset during BUSY holds.
Unconstrained; safe (assumption 2). -/
opaque Config.freeByte : Nat → Byte

end Sys2Proof
end

