-- ==== Sys2Proof/Syntax.lean ====
section
/-! DEFINITION. The commands of PPBLIT as syntax: one constructor of `Instr` per row of
spec/opcode_table.json, and the three fields of the one command-word format (R56 to R58). -/

namespace Sys2Proof

/-- The seven commands of R58. `fast` is CMD.FAST, free for the two BLITs and fixed at 0 for the others,
which therefore carry no field for it. -/
inductive Instr where
  | blit1 (fast : Bool)
  | blit2 (fast : Bool)
  | rev8
  | xpose8
  | mask1
  | mask2
  | lut2
  deriving DecidableEq, Repr

/-- The fields of a command word (R56): OP = bits 3:0, FAST = bit 4, RSV = bits 31:5. -/
structure CommandFields where
  op   : BitVec 4
  fast : Bool
  rsv  : BitVec 27
  deriving DecidableEq, Repr

/-- The fields of a command, from the opcode map of R58. -/
def Instr.fields : Instr → CommandFields
  | .blit1 f => { op := 0x1#4, fast := f, rsv := 0 }
  | .blit2 f => { op := 0x2#4, fast := f, rsv := 0 }
  | .rev8    => { op := 0x3#4, fast := false, rsv := 0 }
  | .xpose8  => { op := 0x4#4, fast := false, rsv := 0 }
  | .mask1   => { op := 0x5#4, fast := false, rsv := 0 }
  | .mask2   => { op := 0x6#4, fast := false, rsv := 0 }
  | .lut2    => { op := 0x7#4, fast := false, rsv := 0 }

end Sys2Proof
end

