-- ==== Sys2Proof/WellFormed.lean ====
section
/-! DEFINITION. Which fields make a well-formed command word: the three conditions of R59, one Bool each.
An `Instr` is well formed by its type; `Instr.wellFormed` says so through its fields. -/

namespace Sys2Proof

/-- The reserved bits are 0 (R56; first check of R59). -/
def CommandFields.rsvClear (c : CommandFields) : Bool := c.rsv == 0

/-- OP is one of 0x1 .. 0x7 (R58; second check of R59). -/
def CommandFields.opAssigned (c : CommandFields) : Bool := 1 ≤ c.op.toNat && c.op.toNat ≤ 7

/-- FAST is 0 unless OP is BLIT1 or BLIT2 (R56; third check of R59). -/
def CommandFields.fastAllowed (c : CommandFields) : Bool :=
  !c.fast || c.op == 0x1#4 || c.op == 0x2#4

/-- All three conditions of R59. -/
def CommandFields.wellFormed (c : CommandFields) : Bool :=
  c.rsvClear && c.opAssigned && c.fastAllowed

/-- An instruction is well formed when its fields are. -/
def Instr.wellFormed (i : Instr) : Bool := i.fields.wellFormed

end Sys2Proof
end

