-- ==== Sys2Proof/Decode.lean ====
section
/-! DEFINITION. The decoder of R59, total on every 32-bit word and rejecting by name, and the encoder
written from the bit patterns of R58. -/

namespace Sys2Proof

/-- The three reasons R59 gives for IllegalCommand. -/
inductive DecodeError where
  /-- `w[31:5] != 0` -/
  | reservedBits
  /-- `w[3:0]` not in 0x1 .. 0x7 -/
  | unassignedOp
  /-- `w[4] = 1` on a command other than BLIT1 and BLIT2 -/
  | fastOnPrimitive
  deriving DecidableEq, Repr

/-- The fields of a word (R56). -/
def CommandFields.ofWord (w : Word) : CommandFields :=
  { op := w.extractLsb' 0 4, fast := w.getLsbD 4, rsv := w.extractLsb' 5 27 }

/-- A primitive command, which must have FAST = 0 (R56, R59's third check). -/
def primitiveOf (fast : Bool) (i : Instr) : Except DecodeError Instr :=
  if fast then .error .fastOnPrimitive else .ok i

/-- R59: the three checks in their order (RSV, OP, FAST), then the row of R58. -/
def decodeFields (c : CommandFields) : Except DecodeError Instr :=
  if c.rsv ≠ 0 then .error .reservedBits
  else match c.op.toNat with
    | 0x1 => .ok (.blit1 c.fast)
    | 0x2 => .ok (.blit2 c.fast)
    | 0x3 => primitiveOf c.fast .rev8
    | 0x4 => primitiveOf c.fast .xpose8
    | 0x5 => primitiveOf c.fast .mask1
    | 0x6 => primitiveOf c.fast .mask2
    | 0x7 => primitiveOf c.fast .lut2
    | _ => .error .unassignedOp

/-- The decoder needs only the word (R57). -/
def decode (w : Word) : Except DecodeError Instr := decodeFields (CommandFields.ofWord w)

/-- The bit patterns of R58 (`f` = FAST in bit 4). -/
def encode : Instr → Word
  | .blit1 f => if f then 0x00000011#32 else 0x00000001#32
  | .blit2 f => if f then 0x00000012#32 else 0x00000002#32
  | .rev8    => 0x00000003#32
  | .xpose8  => 0x00000004#32
  | .mask1   => 0x00000005#32
  | .mask2   => 0x00000006#32
  | .lut2    => 0x00000007#32

/-- The host's question: the instruction the decoder reads from the word whose bits are `w`. Every command
is one 32-bit word (R57), written to CMD whole, so no byte order enters; bits above `nbits` are 0. -/
def decodeTableWord (nbits w : Nat) : Option Instr :=
  match decode (BitVec.ofNat 32 (w % 2 ^ nbits)) with
  | .ok i => some i
  | .error _ => none

end Sys2Proof
end

