-- ==== Sys2Proof/Machine/State.lean ====
section
/-! DEFINITION. The state of PPBLIT as plain data: the registers of R16, the command state machine of R26,
the memory behind the master port (R33), the instantiation's parameters (R6), and the model's own records of
what the outside world does and sees (assumptions 3, 4 and 5). The LUT ROM (R29) is constant, so it is the
function `lut` of Machine/Operands.lean and no field. -/

namespace Sys2Proof.Machine

/-- Memory: (address, byte) pairs in one canonical form, see `Memory.wf`. -/
abbrev Memory := List Host.Cell

/-- What an address that no cell lists reads as. DESIGN CHOICE, unsafe (assumption 6): the spec gives
memory no contents at power-on (R31, R32). -/
def unlistedByte : Byte := 0x00#8

/-- The canonical form: addresses strictly rising, inside the 2^32-byte space (R33), and no cell holding
what an unlisted address reads as. -/
abbrev Memory.wf (m : Memory) : Prop :=
  m.Pairwise (fun c d => c.1 < d.1) ∧ ∀ c ∈ m, c.1 < 2 ^ 32 ∧ c.2 ≠ unlistedByte

/-- The command state machine (R26). STATUS.BUSY is its mirror and is not stored a second time. -/
inductive Fsm where
  | idle
  | busy
  deriving DecidableEq, Repr

/-- The result codes of STATUS.ERR (R105). Codes 10 to 15 are never written and have no constructor. -/
inductive ErrorCode where
  | ok
  | invalidArgument
  | malformedHeader
  | unsupportedFormat
  | depthMismatch
  | unsupportedRotation
  | invalidDimensions
  | sizeMismatch
  | truncatedBuffer
  | illegalCommand
  deriving DecidableEq, Repr

/-- STATUS (R18), less BUSY (the mirror of `fsm`) and its reserved bits (which read 0). -/
structure Status where
  done     : Bool
  upd      : Bool
  updFast  : Bool
  clr      : Bool
  fastpath : Bool
  ovr      : Bool
  err      : ErrorCode
  deriving DecidableEq, Repr

/-- DISP_CFG (R21), less its reserved bits 31:16 (which read 0 and ignore writes). -/
structure DispCfg where
  depth : BitVec 8
  rot   : BitVec 8
  deriving DecidableEq, Repr

/-- DISP_DIM (R22). -/
structure DispDim where
  lw : BitVec 16
  lh : BitVec 16
  deriving DecidableEq, Repr

/-- The kind of a display-update request (R112): UPDATE_KIND 0 is full, 1 is fast. -/
inductive UpdateKind where
  | full
  | fast
  deriving DecidableEq, Repr

/-- Who may take the next step while BUSY (R26, R125). -/
inductive Agent where
  | host
  | engine
  deriving DecidableEq, Repr

/-- One thing the outside world does to PPBLIT or to the memory it shares: register accesses of a host
(R47, R61), byte accesses of another agent to memory (R51), the reset input (R119). `bits` is the width of a
register access; `host` says which host makes it (R117). -/
inductive Event where
  /-- `rd`: a read of the register port at an address of the host's map -/
  | regRead (host : Nat) (addr : Word) (bits : Nat)
  /-- `wr`: a write of the register port -/
  | regWrite (host : Nat) (addr : Word) (bits : Nat) (value : Word)
  /-- `poll`: 32-bit reads of one register until `(value_read & mask) = value` -/
  | poll (host : Nat) (addr mask value : Word)
  /-- a byte read of memory by an agent other than PPBLIT -/
  | memRead (addr : Word)
  /-- a byte write of memory by an agent other than PPBLIT (the `mem` line of R61 is a row of these) -/
  | memWrite (addr : Word) (value : Byte)
  /-- the reset input is asserted -/
  | reset
  deriving DecidableEq, Repr

/-- What an outside agent was given by a read: the address and the value (a memory byte zero-extended). -/
structure HostRead where
  addr  : Word
  value : Word
  deriving DecidableEq, Repr

/-- The host that owns the register port (R117): from its first parameter write to its read of the result;
`started` once it has written CMD. -/
structure PortOwner where
  host    : Nat
  started : Bool
  deriving DecidableEq, Repr

/-- Why the engine step has no successor. -/
inductive Fault where
  /-- R46, U7 (stuck): an access of a BLIT command to the header, payload or framebuffer does not complete.
  Raised by BLIT1 and BLIT2. Safe. -/
  | memoryNoResponse
  deriving DecidableEq, Repr

/-- Why the model gives a situation no meaning. -/
inductive Refusal where
  /-- No instruction of this model is left without a meaning; raised by nobody. Safe. -/
  | notModelled (mnemonic : String)
  /-- R7, U1: the instantiation has MAGIC_1BPP = MAGIC_2BPP. Raised by every step. Safe. -/
  | equalMagics
  /-- R47, U4: a register access that is not 32 bits wide, not at a 4-byte-aligned offset, or not inside the
  window. Raised by regRead, regWrite and poll. Safe. -/
  | registerAccess
  /-- R51, U5: another agent writes the running BLIT's image bytes, or reads or writes its framebuffer.
  Raised by memRead and memWrite. Safe. -/
  | bufferRace
  /-- R52, U6: the image bytes and the framebuffer of a BLIT that passed validation share a byte. Raised by
  BLIT1 and BLIT2, and by a reset that abandons such a command. Safe. -/
  | bufferOverlap
  /-- R44, U8: a buffer of a BLIT command lies on addresses with side effects. Raised by BLIT1 and BLIT2, and
  by a reset that abandons such a command. Safe. -/
  | sideEffectMemory
  /-- R117, U10: a host writes a parameter register while another host owns the port. Raised by regWrite.
  Safe. -/
  | hostsInterleave
  /-- An agent other than PPBLIT accesses a byte of a region that is not plain memory; what the platform does
  there is not in the spec (R116). Raised by memRead and memWrite. Safe. -/
  | platformAccess
  deriving DecidableEq, Repr

/-- The whole machine. -/
structure State where
  /-- CMD, offset 0x00 (R17) -/
  cmd       : Word
  /-- STATUS, offset 0x04 (R18) -/
  status    : Status
  /-- SRC_ADDR, offset 0x08 (R19) -/
  srcAddr   : Word
  /-- SRC_SIZE, offset 0x0C (R19) -/
  srcSize   : Word
  /-- FB_ADDR, offset 0x10 (R20) -/
  fbAddr    : Word
  /-- DISP_CFG, offset 0x14 (R21) -/
  dispCfg   : DispCfg
  /-- DISP_DIM, offset 0x18 (R22) -/
  dispDim   : DispDim
  /-- IN0, offset 0x1C (R23) -/
  in0       : Word
  /-- IN1, offset 0x20 (R23) -/
  in1       : Word
  /-- OUT0, offset 0x24 (R24) -/
  out0      : Word
  /-- OUT1, offset 0x28 (R24) -/
  out1      : Word
  /-- the command state machine (R26) -/
  fsm       : Fsm
  /-- the memory behind the master port; the platform's, not PPBLIT's (R31, R33) -/
  mem       : Memory
  /-- the instantiation's parameters (R6); no step changes them -/
  config    : Config
  /-- model: what the outside world does next, oldest first -/
  events    : List Event
  /-- model: who moves at the coming steps that find the engine busy; the engine when empty (R125) -/
  turns     : List Agent
  /-- model: what outside agents have read, oldest first -/
  reads     : List HostRead
  /-- model: the requests pulsed on UPDATE_REQ, oldest first (R112) -/
  updates   : List UpdateKind
  /-- model: which host owns the register port (R117) -/
  portOwner : Option PortOwner
  /-- model: how many free bytes have been drawn (R120) -/
  draws     : Nat
  deriving DecidableEq, Repr

/-- R32, R119: every register 0, the state machine idle, no request. Memory lists nothing, no event waits, and
the parameters are the test instantiation (assumptions 1, 3 and 6). -/
def State.reset : State :=
  { cmd := 0, status := { done := false, upd := false, updFast := false, clr := false, fastpath := false,
                          ovr := false, err := .ok },
    srcAddr := 0, srcSize := 0, fbAddr := 0, dispCfg := { depth := 0, rot := 0 },
    dispDim := { lw := 0, lh := 0 }, in0 := 0, in1 := 0, out0 := 0, out1 := 0, fsm := .idle,
    mem := [], config := Config.testInstance, events := [], turns := [], reads := [], updates := [],
    portOwner := none, draws := 0 }

end Sys2Proof.Machine
end

