-- ==== Sys2Proof/Machine/Flags.lean ====
section
/-! DEFINITION. STATUS: its word, its error codes, and every way a rule writes its flags (R18, R26, R27,
R83, R105, R106). -/

namespace Sys2Proof.Machine

/-- The number of a result code, STATUS bits 11:8 (R105). -/
def ErrorCode.code : ErrorCode → BitVec 4
  | .ok                  => 0#4
  | .invalidArgument     => 1#4
  | .malformedHeader     => 2#4
  | .unsupportedFormat   => 3#4
  | .depthMismatch       => 4#4
  | .unsupportedRotation => 5#4
  | .invalidDimensions   => 6#4
  | .sizeMismatch        => 7#4
  | .truncatedBuffer     => 8#4
  | .illegalCommand      => 9#4

/-- STATUS.BUSY, the mirror of `fsm` (R26). -/
def State.busy (s : State) : Bool := s.fsm = .busy

/-- The bit vector of width `w` whose bit `i` is `f i`. -/
def bitsOf (f : Nat → Bool) : (w : Nat) → BitVec w
  | 0 => 0#0
  | w + 1 => BitVec.cons (f w) (bitsOf f w)

/-- Bit `i` of STATUS (R18): 0 BUSY, 1 DONE, 2 UPD, 3 UPD_FAST, 4 CLR, 5 FASTPATH, 6 OVR, 11:8 ERR; bit 7 and bits
31:12 are reserved and read 0. -/
def State.statusBit (s : State) (i : Nat) : Bool :=
  match i with
  | 0 => s.busy
  | 1 => s.status.done
  | 2 => s.status.upd
  | 3 => s.status.updFast
  | 4 => s.status.clr
  | 5 => s.status.fastpath
  | 6 => s.status.ovr
  | 8 => s.status.err.code.getLsbD 0
  | 9 => s.status.err.code.getLsbD 1
  | 10 => s.status.err.code.getLsbD 2
  | 11 => s.status.err.code.getLsbD 3
  | _ => false

/-- The STATUS word a read returns (R18). -/
def State.statusWord (s : State) : Word := bitsOf s.statusBit 32

/-- The start of a command clears DONE, UPD, UPD_FAST, CLR, FASTPATH and ERR and keeps OVR (R18, R26, R110;
why R122's words on ERR, that it holds the previous code until completion, are set aside: assumption 12). -/
def Status.start (f : Status) : Status :=
  { f with done := false, upd := false, updFast := false, clr := false, fastpath := false, err := .ok }

/-- A host write of `w` to STATUS while idle: bit 1 clears DONE, bit 6 clears OVR, the rest is ignored
(R18). -/
def Status.writeOneToClear (f : Status) (w : Word) : Status :=
  { f with done := f.done && !w.getLsbD 1, ovr := f.ovr && !w.getLsbD 6 }

/-- A register write that is dropped because BUSY is 1 sets OVR (R27). -/
def Status.overrun (f : Status) : Status := { f with ovr := true }

/-- A command completes, with or without error (R26). -/
def Status.complete (f : Status) : Status := { f with done := true }

/-- The code of an error (R106); it alone is written. -/
def Status.fail (f : Status) (e : ErrorCode) : Status := { f with err := e }

/-- The mirror of an emitted update request (R112). -/
def Status.updated (f : Status) (k : UpdateKind) : Status := { f with upd := true, updFast := k = .fast }

end Sys2Proof.Machine
end

