-- ==== Sys2Proof/Machine/Ops.lean ====
section
/-! DEFINITION. The shared operations: memory bytes and the address arithmetic of R34, address ranges on the
2^32-byte circle, the register file as the port sees it (R16 to R25), the command state machine (R26), the error
that ends a command (R106: PPBLIT's only exception, with no return, R109, R110) and the update request (R112). -/

namespace Sys2Proof.Machine

/-! ## Loops -/

/-- `for i in 0 .. n - 1` of the pseudocode. -/
def forRange {α : Type} (n : Nat) (body : Nat → α → α) (a : α) : α :=
  (List.range n).foldl (fun acc i => body i acc) a

/-! ## Memory -/

/-- The bus address of byte `off` of a buffer at `base` (R34). -/
def busAddr (base : Word) (off : Nat) : Nat := (base.toNat + off) % 2 ^ 32

/-- Read one byte. -/
def Memory.read : Memory → Nat → Byte
  | [], _ => unlistedByte
  | (k, c) :: rest, a => if k = a then c else Memory.read rest a

/-- List `b` at `a`, keeping the addresses rising. -/
def Memory.insert : Memory → Nat → Byte → Memory
  | [], a, b => [(a, b)]
  | (k, c) :: rest, a, b =>
    if a < k then (a, b) :: (k, c) :: rest
    else if a = k then (a, b) :: rest
    else (k, c) :: Memory.insert rest a b

/-- Take `a` off the list. -/
def Memory.erase : Memory → Nat → Memory
  | [], _ => []
  | (k, c) :: rest, a => if k = a then rest else (k, c) :: Memory.erase rest a

/-- Write one byte, keeping the canonical form: a byte equal to what an unlisted address reads as is not
listed. -/
def Memory.write (m : Memory) (a : Nat) (b : Byte) : Memory :=
  if b = unlistedByte then m.erase a else m.insert a b

/-- `MemRead8(base + off)` (R10, R34). -/
def Memory.readAt (m : Memory) (base : Word) (off : Nat) : Byte := m.read (busAddr base off)

/-- `MemWrite(base + off, 1, b)` (R10, R34). -/
def Memory.writeAt (m : Memory) (base : Word) (off : Nat) (b : Byte) : Memory :=
  m.write (busAddr base off) b

/-- `MemRead(base + off, n)`: little-endian, the byte at the lowest address in bits 7:0 (R10, R36). -/
def Memory.readLE (m : Memory) (base : Word) (off : Nat) : Nat → Nat
  | 0 => 0
  | n + 1 => Memory.readLE m base off n + (m.readAt base (off + n)).toNat * 2 ^ (8 * n)

/-- Replace bit `i` of a byte by `b`. -/
def setBitOf (v : Byte) (i : Nat) (b : Bool) : Byte :=
  (v &&& ~~~(1#8 <<< i)) ||| ((BitVec.ofBool b).setWidth 8 <<< i)

/-- Replace the two-bit pixel `k` of a byte, bits `[7-2k : 6-2k]`, by `d` (R10). -/
def setField2Of (v : Byte) (k : Nat) (d : BitVec 2) : Byte :=
  (v &&& ~~~(3#8 <<< (6 - 2 * k))) ||| (d.setWidth 8 <<< (6 - 2 * k))

/-- The two-bit pixel `k` of a byte, bits `[7-2k : 6-2k]`. -/
def field2Of (v : Byte) (k : Nat) : BitVec 2 := v.extractLsb' (6 - 2 * k) 2

/-- `SetBit(base + off, i, b)`: a read-modify-write of one byte (R10, R43). -/
def Memory.setBit (m : Memory) (base : Word) (off i : Nat) (b : Bool) : Memory :=
  m.writeAt base off (setBitOf (m.readAt base off) i b)

/-- `SetField2(base + off, k, d)`: a read-modify-write of one byte (R10, R43). -/
def Memory.setField2 (m : Memory) (base : Word) (off k : Nat) (d : BitVec 2) : Memory :=
  m.writeAt base off (setField2Of (m.readAt base off) k d)

/-! ## Address ranges -/

/-- Whether address `a` lies in the `len` bytes from `base`, modulo 2^32 (R34). -/
def inRange (base : Word) (len a : Nat) : Bool := (a + (2 ^ 32 - base.toNat)) % 2 ^ 32 < len

/-- Whether two ranges share a byte, modulo 2^32. -/
def rangesMeet (base₁ : Word) (len₁ : Nat) (base₂ : Word) (len₂ : Nat) : Bool :=
  (0 < len₂ && inRange base₁ len₁ base₂.toNat) || (0 < len₁ && inRange base₂ len₂ base₁.toNat)

/-- Whether a range touches a region of the given kind (R44, R46). -/
def State.touches (s : State) (k : RegionKind) (base : Word) (len : Nat) : Bool :=
  s.config.regions.any fun r => r.kind == k && rangesMeet r.base r.len base len

/-- Whether a range is the plain memory that R44 and R46 assume. -/
def State.plain (s : State) (base : Word) (len : Nat) : Bool :=
  !s.touches .noResponse base len && !s.touches .sideEffects base len

/-! ## The command state machine -/

/-- The engine step's last actions (R26): DONE set, BUSY cleared, idle. -/
def State.complete (s : State) : State := { s with status := s.status.complete, fsm := .idle }

/-- `raise Error(code)` (R106): only STATUS.ERR is written, and the command completes. -/
def State.raiseError (s : State) (e : ErrorCode) : State :=
  State.complete { s with status := s.status.fail e }

/-- `emit Update(fast)` (R112): one request of that kind, mirrored in STATUS. -/
def State.emitUpdate (s : State) (k : UpdateKind) : State :=
  { s with status := s.status.updated k, updates := s.updates ++ [k] }

/-- The kind CMD.FAST selects (R56, R112). -/
def kindOf (fast : Bool) : UpdateKind := if fast then .fast else .full

/-- A host write of `w` to CMD while idle (R26): the word is latched, the flags are cleared, BUSY is 1. -/
def State.startCommand (s : State) (w : Word) : State :=
  { s with cmd := w, status := s.status.start, fsm := .busy }

/-- The reset input (R119): every PPBLIT register and the state machine at their reset values; memory, the
parameters and the records of the outside world stay. -/
def State.resetRegisters (s : State) : State :=
  { State.reset with mem := s.mem, config := s.config, events := s.events, turns := s.turns,
                     reads := s.reads, updates := s.updates, draws := s.draws }

/-! ## The register file -/

/-- The registers of R16 by name. -/
inductive Reg where
  | cmd | status | srcAddr | srcSize | fbAddr | dispCfg | dispDim | in0 | in1 | out0 | out1
  deriving DecidableEq, Repr

/-- The register at an offset of the window (R16); none at the reserved offsets. -/
def Reg.ofOffset : Nat → Option Reg
  | 0x00 => some .cmd
  | 0x04 => some .status
  | 0x08 => some .srcAddr
  | 0x0C => some .srcSize
  | 0x10 => some .fbAddr
  | 0x14 => some .dispCfg
  | 0x18 => some .dispDim
  | 0x1C => some .in0
  | 0x20 => some .in1
  | 0x24 => some .out0
  | 0x28 => some .out1
  | _ => none

/-- The offset of a register (R16). -/
def Reg.offset : Reg → Nat
  | .cmd => 0x00 | .status => 0x04 | .srcAddr => 0x08 | .srcSize => 0x0C | .fbAddr => 0x10
  | .dispCfg => 0x14 | .dispDim => 0x18 | .in0 => 0x1C | .in1 => 0x20 | .out0 => 0x24 | .out1 => 0x28

/-- The parameter and operand registers, which a command reads (R27, R117). -/
def Reg.isParameter : Reg → Bool
  | .srcAddr | .srcSize | .fbAddr | .dispCfg | .dispDim | .in0 | .in1 => true
  | .cmd | .status | .out0 | .out1 => false

/-- The registers that hold a command's result (R117, R122). -/
def Reg.isResult : Reg → Bool
  | .status | .out0 | .out1 => true
  | _ => false

/-- DISP_CFG as a word (R21): reserved bits 31:16 read 0. -/
def DispCfg.word (d : DispCfg) : Word := (d.rot.setWidth 32 <<< 8) ||| d.depth.setWidth 32

/-- DISP_CFG from a written word (R21): the reserved bits are ignored. -/
def DispCfg.ofWord (w : Word) : DispCfg := { depth := w.extractLsb' 0 8, rot := w.extractLsb' 8 8 }

/-- DISP_DIM as a word (R22). -/
def DispDim.word (d : DispDim) : Word := (d.lh.setWidth 32 <<< 16) ||| d.lw.setWidth 32

/-- DISP_DIM from a written word (R22). -/
def DispDim.ofWord (w : Word) : DispDim := { lw := w.extractLsb' 0 16, lh := w.extractLsb' 16 16 }

/-- The value a register reads as (R16 to R24). A read has no side effect on PPBLIT (R47). -/
def State.getReg (s : State) : Reg → Word
  | .cmd     => s.cmd
  | .status  => s.statusWord
  | .srcAddr => s.srcAddr
  | .srcSize => s.srcSize
  | .fbAddr  => s.fbAddr
  | .dispCfg => s.dispCfg.word
  | .dispDim => s.dispDim.word
  | .in0     => s.in0
  | .in1     => s.in1
  | .out0    => s.out0
  | .out1    => s.out1

/-- The value an offset of the window reads as; a reserved offset reads 0 (R25). -/
def State.readOffset (s : State) (off : Nat) : Word :=
  match Reg.ofOffset off with
  | some r => s.getReg r
  | none => 0

/-- A write of `w` to a register while idle (R17 to R24): CMD starts a command, STATUS is write-one-to-clear,
OUT0 and OUT1 ignore it. -/
def State.setReg (s : State) (r : Reg) (w : Word) : State :=
  match r with
  | .cmd     => s.startCommand w
  | .status  => { s with status := s.status.writeOneToClear w }
  | .srcAddr => { s with srcAddr := w }
  | .srcSize => { s with srcSize := w }
  | .fbAddr  => { s with fbAddr := w }
  | .dispCfg => { s with dispCfg := DispCfg.ofWord w }
  | .dispDim => { s with dispDim := DispDim.ofWord w }
  | .in0     => { s with in0 := w }
  | .in1     => { s with in1 := w }
  | .out0    => s
  | .out1    => s

/-- A 32-bit write of `w` at an offset of the window: dropped with OVR set while busy (R27), ignored at a
reserved offset (R25), else the register's own effect. -/
def State.writeOffset (s : State) (off : Nat) (w : Word) : State :=
  match s.fsm with
  | .busy => { s with status := s.status.overrun }
  | .idle =>
    match Reg.ofOffset off with
    | some r => s.setReg r w
    | none => s

end Sys2Proof.Machine
end

