-- ==== Sys2Proof/Machine/Operands.lean ====
section
/-! DEFINITION. What the commands read: the primitives' operands (R60), the bit functions of R87 to R91, the image
header (R64), and the geometry and pixel locations of both formats (R39 to R41, R77 to R80). -/

namespace Sys2Proof.Machine

/-! ## Operands and results of the primitives -/

/-- IN0[7:0] (R60: REV8 and LUT2 ignore IN0[31:8]). -/
def State.byteOperand (s : State) : Byte := s.in0.extractLsb' 0 8

/-- IN1 ++ IN0, the 64-bit operand of XPOSE8 (R23, R60). -/
def State.wideOperand (s : State) : BitVec 64 := s.in1 ++ s.in0

/-- IN0 as a 32-bit unsigned count (R60: MASK1 and MASK2 use all 32 bits). -/
def State.countOperand (s : State) : Nat := s.in0.toNat

/-- REV8: `r[i] = b[7 - i]` (R87). -/
def rev8Byte (b : Byte) : Byte := bitsOf (fun i => b.getLsbD (7 - i)) 8

/-- XPOSE8: `Y[8c + r] = X[8r + c]` (R88); bit `j` of the result has `c = j div 8`, `r = j mod 8`. -/
def xpose8Word (x : BitVec 64) : BitVec 64 := bitsOf (fun j => x.getLsbD (8 * (j % 8) + j / 8)) 64

/-- The `n` most significant bits of a byte, `(0xFF << (8 - n)) & 0xFF` for `n <= 8` (R89). -/
def highMask (n : Nat) : Byte := 0xFF#8 <<< (8 - n)

/-- MASK1's mask of the first `n` one-bit pixels (R89). -/
def mask1Byte (n : Nat) : Byte := highMask n

/-- MASK2's mask of the first `n` two-bit pixels, `(0xFF << (8 - 2n)) & 0xFF` for `n <= 4` (R90). -/
def mask2Byte (n : Nat) : Byte := highMask (2 * n)

/-- A source value of two plane bits, `v = (b1 << 1) | b2` (R29, R41). -/
def planeValue (b1 b2 : Bool) : BitVec 2 := BitVec.ofBool b1 ++ BitVec.ofBool b2

/-- The native value of a source value, `3 - v` (R29, R41, R104). -/
def nativeValue (v : BitVec 2) : BitVec 2 := 3#2 - v

/-- Pixel `k`'s native value in LUT entry `i` (R29): plane1 bit `i[7-k]`, plane2 bit `i[3-k]`. -/
def lutPixel (i : Byte) (k : Nat) : BitVec 2 :=
  nativeValue (planeValue (i.getLsbD (7 - k)) (i.getLsbD (3 - k)))

/-- The LUT ROM (R29): the OR over `k` of pixel `k`'s native value at bits `[7-2k : 6-2k]`. It is constant from
reset and nothing writes it. -/
def lut (i : Byte) : Byte :=
  ((lutPixel i 0).setWidth 8 <<< 6) ||| ((lutPixel i 1).setWidth 8 <<< 4)
    ||| ((lutPixel i 2).setWidth 8 <<< 2) ||| (lutPixel i 3).setWidth 8

/-! ## The image header -/

/-- The two formats by bits per pixel (R2, R64); `n` of 40_blit_common.md. -/
inductive Depth where
  | one
  | two
  deriving DecidableEq, Repr

/-- Bits per pixel, DISP_CFG.DEPTH's code for the format (R21). -/
def Depth.bits : Depth → Nat
  | .one => 1
  | .two => 2

/-- The 22-byte header (R64). `checksum` is the eight bytes of the checksum prefix, "carried but not
validated": no rule reads it. -/
structure Header where
  magic       : Nat
  width       : Nat
  height      : Nat
  colorMode   : Byte
  compression : Byte
  dataSize    : Nat
  checksum    : List Byte
  deriving DecidableEq, Repr

/-- The header at SRC_ADDR (R64). -/
def State.header (s : State) : Header :=
  { magic       := s.mem.readLE s.srcAddr 0x00 4
    width       := s.mem.readLE s.srcAddr 0x04 2
    height      := s.mem.readLE s.srcAddr 0x06 2
    colorMode   := s.mem.readAt s.srcAddr 0x08
    compression := s.mem.readAt s.srcAddr 0x09
    dataSize    := s.mem.readLE s.srcAddr 0x0A 4
    checksum    := (List.range 8).map fun i => s.mem.readAt s.srcAddr (0x0E + i) }

/-- The magic a format expects (R65). -/
def Depth.expMagic (c : Config) : Depth → Nat
  | .one => c.magic1bpp.toNat
  | .two => c.magic2bpp.toNat

/-- `EXP_SIZE_n(SW, SH)` (R65). -/
def Depth.expSize (n : Depth) (sw sh : Nat) : Nat :=
  match n with
  | .one => sh * ceilDiv sw 8
  | .two => 2 * sw * ceilDiv sh 8

/-! ## Geometry -/

/-- The rotations (R21, R80). -/
inductive Rotation where
  | deg0
  | deg90
  | deg180
  | deg270
  deriving DecidableEq, Repr

/-- DISP_CFG.ROT's code (R21). Codes above 3 fail R71 before the rotation is used. -/
def Rotation.ofCode : Nat → Rotation
  | 0 => .deg0
  | 1 => .deg90
  | 2 => .deg180
  | _ => .deg270

/-- Everything a BLIT command works with: its format, the display handle and the header's size (R28: it lives
only inside the engine step). -/
structure Blit where
  depth : Depth
  rot   : Rotation
  src   : Word
  fb    : Word
  sw    : Nat
  sh    : Nat
  lw    : Nat
  lh    : Nat
  deriving DecidableEq, Repr

/-- The blit of the parameter registers and the header (R60, R64). -/
def State.blit (s : State) (n : Depth) : Blit :=
  { depth := n, rot := Rotation.ofCode s.dispCfg.rot.toNat, src := s.srcAddr, fb := s.fbAddr,
    sw := s.header.width, sh := s.header.height, lw := s.dispDim.lw.toNat, lh := s.dispDim.lh.toNat }

/-- The native width `NW` (R39). -/
def Blit.nw (b : Blit) : Nat :=
  match b.rot with
  | .deg0 | .deg180 => b.lw
  | .deg90 | .deg270 => b.lh

/-- The native height `NH` (R39). -/
def Blit.nh (b : Blit) : Nat :=
  match b.rot with
  | .deg0 | .deg180 => b.lh
  | .deg90 | .deg270 => b.lw

/-- `DST_PITCH` (R39). -/
def Blit.dstPitch (b : Blit) : Nat :=
  match b.depth with
  | .one => ceilDiv b.nw 8
  | .two => b.nw / 4

/-- `FB_LEN` (R39). -/
def Blit.fbLen (b : Blit) : Nat := b.dstPitch * b.nh

/-- The bytes of header and payload (R38, R45); after R73 the payload has `EXP_SIZE_n` bytes. -/
def Blit.imageLen (b : Blit) : Nat := Config.hdrSize + b.depth.expSize b.sw b.sh

/-- `copy_w` (R77). -/
def Blit.copyW (b : Blit) : Nat := min b.sw b.lw

/-- `copy_h` (R77). -/
def Blit.copyH (b : Blit) : Nat := min b.sh b.lh

/-- `covers` (R78). -/
def Blit.covers (b : Blit) : Bool := b.lw ≤ b.sw && b.lh ≤ b.sh

/-- The logical-to-native transform `T` (R80). -/
def Blit.toNative (b : Blit) (x y : Nat) : Nat × Nat :=
  match b.rot with
  | .deg0   => (x, y)
  | .deg90  => (y, b.nh - 1 - x)
  | .deg180 => (b.nw - 1 - x, b.nh - 1 - y)
  | .deg270 => (b.nw - 1 - y, x)

/-! ## Pixels -/

/-- `SRC1_PITCH` (R40). -/
def Blit.src1Pitch (b : Blit) : Nat := ceilDiv b.sw 8

/-- `SrcPix1(x, y)` (R40). -/
def Blit.srcPix1 (b : Blit) (m : Memory) (x y : Nat) : Bool :=
  (m.readAt b.src (Config.hdrSize + y * b.src1Pitch + x / 8)).getLsbD (7 - x % 8)

/-- `PLANE_PITCH` (R41). -/
def Blit.planePitch (b : Blit) : Nat := ceilDiv b.sh 8

/-- `PLANE_SIZE` (R41). -/
def Blit.planeSize (b : Blit) : Nat := b.sw * b.planePitch

/-- The bit of pixel `(x, y)` in the plane whose payload offset is `plane` (R41). -/
def Blit.planeBit (b : Blit) (m : Memory) (plane x y : Nat) : Bool :=
  (m.readAt b.src (Config.hdrSize + plane + x * b.planePitch + y / 8)).getLsbD (7 - y % 8)

/-- `SrcVal2(x, y)` (R41): plane1 first, plane2 at `+PLANE_SIZE`. -/
def Blit.srcVal2 (b : Blit) (m : Memory) (x y : Nat) : BitVec 2 :=
  planeValue (b.planeBit m 0 x y) (b.planeBit m b.planeSize x y)

/-- The byte offset of native 1bpp pixel `(nx, ny)` in the framebuffer, `DstAddr1 - FB_ADDR` (R40). -/
def Blit.dstOff1 (b : Blit) (nx ny : Nat) : Nat := ny * b.dstPitch + nx / 8

/-- `DstBit1(nx)` (R40). -/
def dstBit1 (nx : Nat) : Nat := 7 - nx % 8

/-- The byte offset of native 2bpp pixel `(nx, ny)` in the framebuffer, `DstAddr2 - FB_ADDR` (R41). -/
def Blit.dstOff2 (b : Blit) (nx ny : Nat) : Nat := ny * b.dstPitch + nx / 4

/-- `DstSlot2(nx)` (R41). -/
def dstSlot2 (nx : Nat) : Nat := nx % 4

/-- The native 1bpp pixel `(nx, ny)` of a framebuffer (R40). -/
def Blit.nativePix1 (b : Blit) (m : Memory) (nx ny : Nat) : Bool :=
  (m.readAt b.fb (b.dstOff1 nx ny)).getLsbD (dstBit1 nx)

/-- The native 2bpp pixel `(nx, ny)` of a framebuffer (R41). -/
def Blit.nativePix2 (b : Blit) (m : Memory) (nx ny : Nat) : BitVec 2 :=
  field2Of (m.readAt b.fb (b.dstOff2 nx ny)) (dstSlot2 nx)

/-- The white byte of the clear: `WHITE1` in all 8 pixels, `WHITE2` in all 4 (R6, R79). -/
def Depth.white : Depth → Byte
  | .one => 0x00#8
  | .two => 0xFF#8

end Sys2Proof.Machine
end

