-- ==== Sys2Proof/Machine/BlitCommon.lean ====
section
/-! DEFINITION. What BLIT1 and BLIT2 share (40_blit_common.md): the ten validation checks in their order, what the
spec puts outside it (R44, R46, R52), the clear, and the order of a BLIT command (R83). -/

namespace Sys2Proof.Machine

/-- Checks 1 and 2, made before any byte is read (R66, R67): the condition that fails and its code. -/
def State.entryChecks (s : State) : List (Bool × ErrorCode) :=
  [ (s.srcAddr == 0 || s.fbAddr == 0, .invalidArgument),
    (s.srcSize.toNat < Config.hdrSize, .malformedHeader) ]

/-- Checks 3 to 10 (R68 to R75). -/
def State.headerChecks (s : State) (n : Depth) : List (Bool × ErrorCode) :=
  let h := s.header
  let b := s.blit n
  [ (h.magic != n.expMagic s.config, .malformedHeader),
    (h.colorMode != 0 || h.compression != 0, .unsupportedFormat),
    (s.dispCfg.depth.toNat != n.bits, .depthMismatch),
    (3 < s.dispCfg.rot.toNat, .unsupportedRotation),
    (b.sw == 0 || b.sh == 0 || b.lw == 0 || b.lh == 0, .invalidDimensions),
    (h.dataSize != n.expSize b.sw b.sh, .sizeMismatch),
    (s.srcSize.toNat < Config.hdrSize + h.dataSize, .truncatedBuffer),
    (n == .two && b.nw % 4 != 0, .invalidDimensions) ]

/-- The first failing check alone is reported (R76). -/
def firstFailing (checks : List (Bool × ErrorCode)) : Option ErrorCode :=
  (checks.find? (·.1)).map (·.2)

/-- R66 to R76: the code of the first of the ten checks that fails. -/
def State.validate (s : State) (n : Depth) : Option ErrorCode :=
  firstFailing (s.entryChecks ++ s.headerChecks n)

/-- What becomes of a BLIT command before its first write. -/
inductive Admission where
  /-- a check fails -/
  | reject (e : ErrorCode)
  /-- an access does not complete (R46) -/
  | stuck (f : Fault)
  /-- the situation is outside the spec (R44, R52) -/
  | outside (r : Refusal)
  /-- it runs -/
  | run (b : Blit)
  deriving DecidableEq, Repr

/-- What stops an access to a range that is not plain memory (R44, R46). -/
def State.accessStop (s : State) (base : Word) (len : Nat) : Option Admission :=
  if s.touches .noResponse base len then some (.stuck .memoryNoResponse)
  else if s.touches .sideEffects base len then some (.outside .sideEffectMemory)
  else none

/-- The header is read only when checks 1 and 2 pass (R64, R67). -/
def State.headerStop (s : State) : Option Admission :=
  match firstFailing s.entryChecks with
  | some _ => none
  | none => s.accessStop s.srcAddr Config.hdrSize

/-- A validated command's buffers: plain memory (R44, R46), and no byte in common (R52). -/
def State.bufferStop (s : State) (b : Blit) : Option Admission :=
  match s.accessStop b.src b.imageLen with
  | some stop => some stop
  | none =>
    match s.accessStop b.fb b.fbLen with
    | some stop => some stop
    | none =>
      if rangesMeet b.src b.imageLen b.fb b.fbLen then some (.outside .bufferOverlap) else none

/-- The front end of a BLIT command: header access, validation, buffers. -/
def State.admission (s : State) (n : Depth) : Admission :=
  match s.headerStop with
  | some stop => stop
  | none =>
    match s.validate n with
    | some e => .reject e
    | none =>
      match s.bufferStop (s.blit n) with
      | some stop => stop
      | none => .run (s.blit n)

/-- Fill the framebuffer with one byte (R79). -/
def Blit.fill (b : Blit) (m : Memory) : Memory :=
  forRange b.fbLen (fun i m => m.writeAt b.fb i b.depth.white) m

/-- Clear-before-blit (R79): only when the source does not cover the display. -/
def State.clearFor (s : State) (b : Blit) : State :=
  if b.covers then s
  else { s with mem := b.fill s.mem, status := { s.status with clr := true } }

/-- The pixel loop of every converter: rows outside, columns inside, over the copy region (R81). -/
def Blit.forPixels (b : Blit) (body : Nat → Nat → Memory → Memory) (m : Memory) : Memory :=
  forRange b.copyH (fun y m => forRange b.copyW (fun x m => body x y m) m) m

/-- What follows the path (R83): the update request, then UPD, UPD_FAST and ERR, then completion. -/
def State.finishBlit (s : State) (fast : Bool) : State :=
  let u := s.emitUpdate (kindOf fast)
  State.complete { u with status := u.status.fail .ok }

/-- The order of a BLIT command (R83), given its path: validate, clear, path, update. -/
def State.runBlit (s : State) (n : Depth) (fast : Bool) (path : Blit → State → State) :
    Host.Outcome State Fault Refusal :=
  match s.admission n with
  | .reject e => .next (s.raiseError e)
  | .stuck f => .fault f
  | .outside r => .refused r
  | .run b => .next ((path b (s.clearFor b)).finishBlit fast)

end Sys2Proof.Machine
end

