-- ==== Sys2Proof/Machine/Blit1.lean ====
section
/-! DEFINITION. BLIT1 (42_blit_1bpp.md): the fullscreen fast path and the four 1bpp converters, each as its own
rule writes it. -/

namespace Sys2Proof.Machine

/-- Whether BLIT1 takes the fullscreen fast path (R82, R93). -/
def Blit.isFullscreen (b : Blit) : Bool := b.rot = .deg0 && b.sw = b.lw && b.sh = b.lh

/-- The bulk copy of the fast path (R93). -/
def Blit.bulkCopy (b : Blit) (m : Memory) : Memory :=
  forRange (b.sh * b.src1Pitch)
    (fun i m => m.writeAt b.fb i (m.readAt b.src (Config.hdrSize + i))) m

/-- The padding fix of the fast path (R93): the last byte of every native row is ANDed with
`MASK1(LW mod 8)`. -/
def Blit.fixPadding (b : Blit) (m : Memory) : Memory :=
  if b.lw % 8 = 0 then m
  else forRange b.lh
    (fun ny m =>
      let off := ny * b.dstPitch + b.dstPitch - 1
      m.writeAt b.fb off (m.readAt b.fb off &&& mask1Byte (b.lw % 8))) m

/-- The fullscreen fast path (R93). -/
def Blit.fastPath (b : Blit) (m : Memory) : Memory := b.fixPadding (b.bulkCopy m)

/-- The 0° converter (R94). -/
def Blit.convert1Deg0 (b : Blit) (m : Memory) : Memory :=
  b.forPixels (fun x y m =>
    m.setBit b.fb (y * b.dstPitch + x / 8) (7 - x % 8) (b.srcPix1 m x y)) m

/-- The 90° converter (R95). -/
def Blit.convert1Deg90 (b : Blit) (m : Memory) : Memory :=
  b.forPixels (fun x y m =>
    m.setBit b.fb ((b.lw - 1 - x) * b.dstPitch + y / 8) (7 - y % 8) (b.srcPix1 m x y)) m

/-- The 180° converter (R96). -/
def Blit.convert1Deg180 (b : Blit) (m : Memory) : Memory :=
  b.forPixels (fun x y m =>
    let nx := b.lw - 1 - x
    let ny := b.lh - 1 - y
    m.setBit b.fb (ny * b.dstPitch + nx / 8) (7 - nx % 8) (b.srcPix1 m x y)) m

/-- The 270° converter (R97). -/
def Blit.convert1Deg270 (b : Blit) (m : Memory) : Memory :=
  b.forPixels (fun x y m =>
    let nx := b.lh - 1 - y
    m.setBit b.fb (x * b.dstPitch + nx / 8) (7 - nx % 8) (b.srcPix1 m x y)) m

/-- The path of BLIT1 (R82, R92). -/
def Blit.path1 (b : Blit) (s : State) : State :=
  if b.isFullscreen then
    { s with mem := b.fastPath s.mem, status := { s.status with fastpath := true } }
  else match b.rot with
    | .deg0   => { s with mem := b.convert1Deg0 s.mem }
    | .deg90  => { s with mem := b.convert1Deg90 s.mem }
    | .deg180 => { s with mem := b.convert1Deg180 s.mem }
    | .deg270 => { s with mem := b.convert1Deg270 s.mem }

/-- BLIT1 (R92). -/
def execBlit1 (fast : Bool) (s : State) : Host.Outcome State Fault Refusal :=
  s.runBlit .one fast Blit.path1

end Sys2Proof.Machine
end

