-- ==== Sys2Proof/Machine/Blit2.lean ====
section
/-! DEFINITION. BLIT2 (43_blit_2bpp.md): the four 2bpp converters, each as its own rule writes it. -/

namespace Sys2Proof.Machine

/-- The native value of source pixel `(x, y)`, `3 - SrcVal2(x, y)` (R104). -/
def Blit.nativeOfSrc2 (b : Blit) (m : Memory) (x y : Nat) : BitVec 2 := nativeValue (b.srcVal2 m x y)

/-- The 0° converter (R100). -/
def Blit.convert2Deg0 (b : Blit) (m : Memory) : Memory :=
  b.forPixels (fun x y m =>
    m.setField2 b.fb (y * b.dstPitch + x / 4) (x % 4) (b.nativeOfSrc2 m x y)) m

/-- The 90° converter (R101). -/
def Blit.convert2Deg90 (b : Blit) (m : Memory) : Memory :=
  b.forPixels (fun x y m =>
    m.setField2 b.fb ((b.lw - 1 - x) * b.dstPitch + y / 4) (y % 4) (b.nativeOfSrc2 m x y)) m

/-- The 180° converter (R102). -/
def Blit.convert2Deg180 (b : Blit) (m : Memory) : Memory :=
  b.forPixels (fun x y m =>
    let nx := b.lw - 1 - x
    let ny := b.lh - 1 - y
    m.setField2 b.fb (ny * b.dstPitch + nx / 4) (nx % 4) (b.nativeOfSrc2 m x y)) m

/-- The 270° converter (R103). -/
def Blit.convert2Deg270 (b : Blit) (m : Memory) : Memory :=
  b.forPixels (fun x y m =>
    m.setField2 b.fb (x * b.dstPitch + (b.lh / 4 - 1 - y / 4)) (3 - y % 4) (b.nativeOfSrc2 m x y)) m

/-- The path of BLIT2 (R82, R99). -/
def Blit.path2 (b : Blit) (s : State) : State :=
  match b.rot with
  | .deg0   => { s with mem := b.convert2Deg0 s.mem }
  | .deg90  => { s with mem := b.convert2Deg90 s.mem }
  | .deg180 => { s with mem := b.convert2Deg180 s.mem }
  | .deg270 => { s with mem := b.convert2Deg270 s.mem }

/-- BLIT2 (R99). -/
def execBlit2 (fast : Bool) (s : State) : Host.Outcome State Fault Refusal :=
  s.runBlit .two fast Blit.path2

end Sys2Proof.Machine
end

