-- ==== Sys2Proof/Machine/Primitives.lean ====
section
/-! DEFINITION. The five primitive commands (R86 to R91): REV8, XPOSE8, MASK1, MASK2, LUT2. -/

namespace Sys2Proof.Machine

/-- A primitive's success: OUT0 written, OUT1 and every other register left, the command complete (R86). -/
def State.finishOut0 (s : State) (b : Byte) : State :=
  State.complete { s with out0 := b.setWidth 32 }

/-- REV8 (R87). -/
def execRev8 (s : State) : Host.Outcome State Fault Refusal :=
  .next (s.finishOut0 (rev8Byte s.byteOperand))

/-- XPOSE8 (R88): `OUT1 ++ OUT0` is the transpose of `IN1 ++ IN0`. -/
def execXpose8 (s : State) : Host.Outcome State Fault Refusal :=
  let y := xpose8Word s.wideOperand
  .next (State.complete { s with out0 := y.extractLsb' 0 32, out1 := y.extractLsb' 32 32 })

/-- MASK1 (R89): InvalidArgument when the count is above 8. -/
def execMask1 (s : State) : Host.Outcome State Fault Refusal :=
  if 8 < s.countOperand then .next (s.raiseError .invalidArgument)
  else .next (s.finishOut0 (mask1Byte s.countOperand))

/-- MASK2 (R90): InvalidArgument when the count is above 4. -/
def execMask2 (s : State) : Host.Outcome State Fault Refusal :=
  if 4 < s.countOperand then .next (s.raiseError .invalidArgument)
  else .next (s.finishOut0 (mask2Byte s.countOperand))

/-- LUT2 (R91). -/
def execLut2 (s : State) : Host.Outcome State Fault Refusal :=
  .next (s.finishOut0 (lut s.byteOperand))

end Sys2Proof.Machine
end

