-- ==== Sys2Proof/Machine/Dispatch.lean ====
section
/-! DEFINITION. The dispatch of R59: one arm per command, each its own meaning. -/

namespace Sys2Proof.Machine

def exec (i : Instr) (s : State) : Host.Outcome State Fault Refusal :=
  match i with
  | .blit1 fast => Sys2Proof.Machine.execBlit1 fast s
  | .blit2 fast => Sys2Proof.Machine.execBlit2 fast s
  | .rev8 => Sys2Proof.Machine.execRev8 s
  | .xpose8 => Sys2Proof.Machine.execXpose8 s
  | .mask1 => Sys2Proof.Machine.execMask1 s
  | .mask2 => Sys2Proof.Machine.execMask2 s
  | .lut2 => Sys2Proof.Machine.execLut2 s

end Sys2Proof.Machine
end

