-- ==== Sys2Proof/Machine/Engine.lean ====
section
/-! DEFINITION. The engine step (R26, R59): decode CMD, then the command or IllegalCommand; who moves next (R125);
and the buffers of a running command (R38, R51). -/

namespace Sys2Proof.Machine

/-- The engine step (R26): the latched word is decoded now (R17, R59) and executed as one transition. -/
def State.engineStep (s : State) : Host.Outcome State Fault Refusal :=
  match decode s.cmd with
  | .ok i => exec i s
  | .error _ => .next (s.raiseError .illegalCommand)

/-- Who takes the next step (R125, assumption 4): while idle the host; while busy whoever `turns` names, and the
engine when it names nobody, so that the engine step comes after finitely many host steps. -/
def State.mover (s : State) : Agent :=
  match s.fsm, s.turns with
  | .idle, _ => .host
  | .busy, [] => .engine
  | .busy, a :: _ => a

/-- A step taken while busy uses up one turn. -/
def State.popTurn (s : State) : State :=
  match s.fsm with
  | .idle => s
  | .busy => { s with turns := s.turns.tail }

/-- An instantiation with equal magics is refused (R7). -/
def State.instantiationStop (s : State) : Option Refusal :=
  if s.config.magic1bpp = s.config.magic2bpp then some .equalMagics else none

/-- The format of the BLIT command that is running, if one is (R26, R59). -/
def State.runningBlit (s : State) : Option Depth :=
  match s.fsm, decode s.cmd with
  | .busy, .ok (.blit1 _) => some .one
  | .busy, .ok (.blit2 _) => some .two
  | _, _ => none

/-- The format by which R39 measures a BLIT's framebuffer: DISP_CFG.DEPTH's, and the command's own where DEPTH is
neither 1 nor 2 and R39 gives no length (assumption 13). A validated command's DEPTH is its own format's (R70). -/
def State.layoutDepth (s : State) (n : Depth) : Depth :=
  match s.dispCfg.depth.toNat with
  | 1 => .one
  | 2 => .two
  | _ => n

/-- The bytes of header and payload as R38 gives them: the payload has the declared `data_size` bytes, once checks 1
and 2 have passed and the header is parsed (R64, R67; assumption 13). -/
def State.declaredImageLen (s : State) : Nat :=
  match firstFailing s.entryChecks with
  | some _ => Config.hdrSize
  | none => Config.hdrSize + s.header.dataSize

/-- The bytes of the framebuffer range of R39, for a BLIT of format `n`, valid or not. -/
def State.declaredFbLen (s : State) (n : Depth) : Nat := (s.blit (s.layoutDepth n)).fbLen

/-- Whether address `a` is in the header or payload range of the running BLIT (R51), whether or not it will
validate. -/
def State.imageInUse (s : State) (a : Nat) : Bool :=
  s.runningBlit.isSome && inRange s.srcAddr s.declaredImageLen a

/-- Whether address `a` is in the framebuffer range of the running BLIT (R51), whether or not it will validate. -/
def State.framebufferInUse (s : State) (a : Nat) : Bool :=
  match s.runningBlit with
  | none => false
  | some n => inRange s.fbAddr (s.declaredFbLen n) a

end Sys2Proof.Machine
end

