-- ==== Sys2Proof/Machine/Port.lean ====
section
/-! DEFINITION. What the outside world does to PPBLIT: the register slave port (R16 to R27, R47, R117), byte
accesses of other agents to memory (R51), the reset input (R119, R120), and the host-program notation (R61). -/

namespace Sys2Proof.Machine

/-! ## The register port -/

/-- The window offset of a register access; none when it is not 32 bits wide, not at a 4-byte-aligned offset or
not inside the window (R47). -/
def State.windowOffset (s : State) (addr : Word) (bits : Nat) : Option Nat :=
  let off := (addr - s.config.regBase).toNat
  if bits = 32 ∧ off % 4 = 0 ∧ off < Config.regWindow then some off else none

/-- An outside agent is given a value. -/
def State.record (s : State) (addr value : Word) : State :=
  { s with reads := s.reads ++ [{ addr := addr, value := value }] }

/-- Whether a write by `host` to the register at `off` breaks another host's ownership of the port (R117). -/
def State.portConflict (s : State) (host off : Nat) : Bool :=
  match s.portOwner, Reg.ofOffset off with
  | some o, some r => r.isParameter && o.host != host
  | _, _ => false

/-- The owner of the port after an accepted write by `host` at `off` (R117): a parameter write takes it, the
owner's CMD write starts its command. -/
def State.ownerAfterWrite (s : State) (host off : Nat) : Option PortOwner :=
  match s.fsm, Reg.ofOffset off with
  | .idle, some r =>
    if r.isParameter then some { host := host, started := false }
    else match r, s.portOwner with
      | .cmd, some o => if o.host = host then some { o with started := true } else some o
      | _, o => o
  | _, _ => s.portOwner

/-- The owner of the port after a read by `host` at `off` (R117): the owner's read of a result, its command
started and over, gives the port up. -/
def State.ownerAfterRead (s : State) (host off : Nat) : Option PortOwner :=
  match s.fsm, Reg.ofOffset off, s.portOwner with
  | .idle, some r, some o => if r.isResult && o.started && o.host == host then none else some o
  | _, _, o => o

/-- `rd` at a window offset (R47): the value is given and no register changes. -/
def State.portRead (s : State) (host : Nat) (addr : Word) (off : Nat) : State :=
  { s.record addr (s.readOffset off) with portOwner := s.ownerAfterRead host off }

/-- `wr` at a window offset. -/
def State.portWrite (s : State) (host off : Nat) (w : Word) : State :=
  { s.writeOffset off w with portOwner := s.ownerAfterWrite host off }

/-- A register read (R25, R47). -/
def State.regRead (s : State) (host : Nat) (addr : Word) (bits : Nat) : Host.Outcome State Fault Refusal :=
  match s.windowOffset addr bits with
  | none => .refused .registerAccess
  | some off => .next (s.portRead host addr off)

/-- A register write (R17 to R27, R47, R117). -/
def State.regWrite (s : State) (host : Nat) (addr : Word) (bits : Nat) (w : Word) :
    Host.Outcome State Fault Refusal :=
  match s.windowOffset addr bits with
  | none => .refused .registerAccess
  | some off =>
    if s.portConflict host off then .refused .hostsInterleave else .next (s.portWrite host off w)

/-- One turn of a `poll` (R61): a read, and the poll again unless the masked value is the one awaited. -/
def State.pollOnce (s : State) (host : Nat) (addr mask value : Word) : Host.Outcome State Fault Refusal :=
  match s.windowOffset addr 32 with
  | none => .refused .registerAccess
  | some off =>
    let t := s.portRead host addr off
    if s.readOffset off &&& mask = value then .next t
    else .next { t with events := .poll host addr mask value :: t.events }

/-! ## Memory, from other agents -/

/-- A byte read of memory by another agent: refused inside the framebuffer of the running BLIT (R51). -/
def State.memRead (s : State) (addr : Word) : Host.Outcome State Fault Refusal :=
  if !s.plain addr 1 then .refused .platformAccess
  else if s.framebufferInUse addr.toNat then .refused .bufferRace
  else .next (s.record addr ((s.mem.readAt addr 0).setWidth 32))

/-- A byte write of memory by another agent: refused inside the header, payload and framebuffer of the running BLIT
(R51). -/
def State.memWrite (s : State) (addr : Word) (b : Byte) : Host.Outcome State Fault Refusal :=
  if !s.plain addr 1 then .refused .platformAccess
  else if s.imageInUse addr.toNat || s.framebufferInUse addr.toNat then .refused .bufferRace
  else .next { s with mem := s.mem.writeAt addr 0 b }

/-! ## The reset input -/

/-- The framebuffer of an abandoned command holds any value (R120): one free byte for each of its bytes. -/
def State.scramble (s : State) (b : Blit) : State :=
  { s with mem := forRange b.fbLen (fun i m => m.writeAt b.fb i (Config.freeByte (s.draws + i))) s.mem,
           draws := s.draws + b.fbLen }

/-- The reset input (R119, R120). A BLIT abandoned while running leaves its write range free (R45: none when it
fails validation or hangs on its header); one that the spec excludes (R44, R52) is refused. -/
def State.resetInput (s : State) : Host.Outcome State Fault Refusal :=
  match s.runningBlit with
  | none => .next s.resetRegisters
  | some n =>
    match s.admission n with
    | .reject _ => .next s.resetRegisters
    | .stuck _ =>
      if s.headerStop.isSome then .next s.resetRegisters
      else .next (s.scramble (s.blit n)).resetRegisters
    | .outside r => .refused r
    | .run b => .next (s.scramble b).resetRegisters

/-! ## The host step -/

/-- One event. -/
def State.handle (s : State) : Event → Host.Outcome State Fault Refusal
  | .regRead host addr bits => s.regRead host addr bits
  | .regWrite host addr bits value => s.regWrite host addr bits value
  | .poll host addr mask value => s.pollOnce host addr mask value
  | .memRead addr => s.memRead addr
  | .memWrite addr value => s.memWrite addr value
  | .reset => s.resetInput

/-- The host step: the oldest waiting event; with none waiting PPBLIT waits (R119). -/
def State.hostStep (s : State) : Host.Outcome State Fault Refusal :=
  match s.events with
  | [] => .next s
  | e :: rest => State.handle { s with events := rest } e

/-! ## Host-program notation (R61)

A program is a list of events; host 0 runs it. `REG` stands for the register's address, `REG_BASE` + offset. -/

/-- The address of a register in the host's map (R16). -/
def Reg.addr (c : Config) (r : Reg) : Word := c.regBase + BitVec.ofNat 32 r.offset

/-- `wr REG, imm32` -/
def wr (c : Config) (r : Reg) (v : Word) : Event := .regWrite 0 (r.addr c) 32 v

/-- `rd REG` -/
def rd (c : Config) (r : Reg) : Event := .regRead 0 (r.addr c) 32

/-- `poll REG, mask, value` -/
def poll (c : Config) (r : Reg) (mask value : Word) : Event := .poll 0 (r.addr c) mask value

/-- `mem ADDR: b0 b1 ...` -/
def memLine (a : Word) : List Byte → List Event
  | [] => []
  | b :: bs => .memWrite a b :: memLine (a + 1) bs

/-- The nine command pseudo-instructions (`blit1`, `blit1.fast`, `blit2`, ...): one write of CMD. -/
def command (c : Config) (i : Instr) : Event := wr c .cmd (encode i)

/-- `wait` -/
def wait (c : Config) : Event := poll c .status 0x00000001#32 0x00000000#32

/-- `ack`: clears DONE and OVR -/
def ack (c : Config) : Event := wr c .status 0x00000042#32

end Sys2Proof.Machine
end

