-- ==== Sys2Proof/Machine/Step.lean ====
section
/-! DEFINITION. One step of the machine: the engine's or the host's (R26, R125); and the host's question of how a
command comes to be the next thing that runs. -/

namespace Sys2Proof.Machine

/-- One step: refused for an instantiation the spec excludes (R7), else the step of whoever moves (R26, R125). -/
def step (s : State) : Host.Outcome State Fault Refusal :=
  match s.instantiationStop with
  | some r => .refused r
  | none =>
    match s.mover with
    | .engine => s.popTurn.engineStep
    | .host => s.popTurn.hostStep

/-- PPBLIT fetches no instructions (R14, R54): a command runs because a host wrote its word to CMD (R17). This is
the state right after that write, with the engine's turn next (assumption 7). -/
def State.withFetchWord (s : State) (nbits w : Nat) : State :=
  { s.startCommand (BitVec.ofNat 32 (w % 2 ^ nbits)) with turns := .engine :: s.turns }

end Sys2Proof.Machine
end

