-- ==== Sys2Proof/Safety.lean ====
section
/-! DEFINITION. The terms in which claims speak of a good state and a good run. -/

namespace Sys2Proof.Machine

/-- The flags and code that the start of a command clears are clear (R18, R26). -/
abbrev Status.startClear (f : Status) : Prop :=
  f.done = false ∧ f.upd = false ∧ f.updFast = false ∧ f.clr = false ∧ f.fastpath = false ∧ f.err = .ok

/-- What STATUS says of the last command hangs together (R18, R92, R105, R112): UPD_FAST, CLR, FASTPATH only with
UPD; UPD only without an error; CLR and FASTPATH never both. -/
abbrev Status.coherent (f : Status) : Prop :=
  (f.updFast = true → f.upd = true) ∧ (f.clr = true → f.upd = true) ∧ (f.fastpath = true → f.upd = true) ∧
    (f.upd = true → f.err = .ok) ∧ ¬(f.clr = true ∧ f.fastpath = true)

/-- A command is running, as a CMD write left it (R26). -/
abbrev State.running (s : State) : Prop := s.fsm = .busy ∧ s.status.startClear

/-- The invariant of the machine: memory is canonical, a running command has its flags clear, STATUS hangs
together. -/
abbrev State.Inv (s : State) : Prop :=
  s.mem.wf ∧ (s.fsm = .busy → s.status.startClear) ∧ s.status.coherent

/-- The instantiation is one the spec has (R7). -/
abbrev State.validInstance (s : State) : Prop := s.config.magic1bpp ≠ s.config.magic2bpp

/-- The BLIT command of a format. -/
def Depth.instr (n : Depth) (fast : Bool) : Instr :=
  match n with
  | .one => .blit1 fast
  | .two => .blit2 fast

/-- Two bytes of a buffer, little-endian (R36). -/
def le16 (m : Memory) (base : Word) (off : Nat) : Nat :=
  (m.readAt base off).toNat + 2 ^ 8 * (m.readAt base (off + 1)).toNat

/-- Four bytes of a buffer, little-endian (R36). -/
def le32 (m : Memory) (base : Word) (off : Nat) : Nat :=
  (m.readAt base off).toNat + 2 ^ 8 * (m.readAt base (off + 1)).toNat
    + 2 ^ 16 * (m.readAt base (off + 2)).toNat + 2 ^ 24 * (m.readAt base (off + 3)).toNat

/-- Checks 1 and 2 pass: the header is read (R66, R67). -/
abbrev State.headerRead (s : State) : Prop := s.srcAddr ≠ 0 ∧ s.fbAddr ≠ 0 ∧ 22 ≤ s.srcSize.toNat

/-- The code of the first failing check of a BLIT, check by check as R66 to R75 write them, on the bytes of the
header (R64). It is the claims' own reading of those rules, apart from the model's `State.validate`. -/
def State.firstError (s : State) (n : Depth) : Option ErrorCode :=
  let magic := le32 s.mem s.srcAddr 0x00
  let sw := le16 s.mem s.srcAddr 0x04
  let sh := le16 s.mem s.srcAddr 0x06
  let colorMode := s.mem.readAt s.srcAddr 0x08
  let compression := s.mem.readAt s.srcAddr 0x09
  let dataSize := le32 s.mem s.srcAddr 0x0A
  let rot := s.dispCfg.rot.toNat
  let lw := s.dispDim.lw.toNat
  let lh := s.dispDim.lh.toNat
  if s.srcAddr = 0 ∨ s.fbAddr = 0 then some .invalidArgument
  else if s.srcSize.toNat < 22 then some .malformedHeader
  else if magic ≠ (if n = .one then s.config.magic1bpp else s.config.magic2bpp).toNat then some .malformedHeader
  else if colorMode ≠ 0 ∨ compression ≠ 0 then some .unsupportedFormat
  else if s.dispCfg.depth.toNat ≠ (if n = .one then 1 else 2) then some .depthMismatch
  else if 3 < rot then some .unsupportedRotation
  else if sw = 0 ∨ sh = 0 ∨ lw = 0 ∨ lh = 0 then some .invalidDimensions
  else if dataSize ≠ (if n = .one then sh * ceilDiv sw 8 else 2 * sw * ceilDiv sh 8) then some .sizeMismatch
  else if s.srcSize.toNat < 22 + dataSize then some .truncatedBuffer
  else if n = .two ∧ (if rot = 0 ∨ rot = 2 then lw else lh) % 4 ≠ 0 then some .invalidDimensions
  else none

/-- Source pixel `(x, y)` of a 1bpp image on the payload's bytes, as R40 writes it, apart from the model's
`Blit.srcPix1`. -/
def State.sourceBit (s : State) (x y : Nat) : Bool :=
  let pitch := (le16 s.mem s.srcAddr 0x04 + 7) / 8
  (s.mem.readAt s.srcAddr (0x16 + y * pitch + x / 8)).getLsbD (7 - x % 8)

/-- Source value `2*b1 + b2` of pixel `(x, y)` of a 2bpp image on the payload's bytes, as R41 writes it (plane 1 first,
column-major planes, the topmost pixel in bit 7), apart from the model's `Blit.srcVal2`. -/
def State.sourceValue (s : State) (x y : Nat) : Nat :=
  let planePitch := (le16 s.mem s.srcAddr 0x06 + 7) / 8
  let p1 := 0x16
  let p2 := 0x16 + le16 s.mem s.srcAddr 0x04 * planePitch
  let b1 := (s.mem.readAt s.srcAddr (p1 + x * planePitch + y / 8)).getLsbD (7 - y % 8)
  let b2 := (s.mem.readAt s.srcAddr (p2 + x * planePitch + y / 8)).getLsbD (7 - y % 8)
  2 * b1.toNat + b2.toNat

/-- `NW` on the display registers, as R39 writes it. -/
def State.nativeWidth (s : State) : Nat :=
  if s.dispCfg.rot = 0 ∨ s.dispCfg.rot = 2 then s.dispDim.lw.toNat else s.dispDim.lh.toNat

/-- `NH` on the display registers, as R39 writes it. -/
def State.nativeHeight (s : State) : Nat :=
  if s.dispCfg.rot = 0 ∨ s.dispCfg.rot = 2 then s.dispDim.lh.toNat else s.dispDim.lw.toNat

/-- `DST_PITCH` for a depth of 1 or 2 bits, as R39 writes it. -/
def State.nativePitch (s : State) (depth : Nat) : Nat :=
  if depth = 1 then (s.nativeWidth + 7) / 8 else s.nativeWidth / 4

/-- `FB_LEN` for a depth of 1 or 2 bits, as R39 writes it. -/
def State.nativeLen (s : State) (depth : Nat) : Nat := s.nativePitch depth * s.nativeHeight

/-- The header and payload ranges of R38, on the registers and the header's bytes: the payload has the declared
`data_size` bytes once the header is read (assumption 13 says what a header that is not read means). -/
abbrev State.inDeclaredImage (s : State) (a : Nat) : Prop :=
  inRange s.srcAddr 22 a = true ∨ (s.headerRead ∧ inRange s.srcAddr (22 + le32 s.mem s.srcAddr 0x0A) a = true)

/-- The framebuffer range of R38 and R39, on the registers: measured by DEPTH where it is 1 or 2, else by the command's
own format (assumption 13). -/
abbrev State.inDeclaredFramebuffer (s : State) (n : Depth) (a : Nat) : Prop :=
  inRange s.fbAddr (s.nativeLen
    (if s.dispCfg.depth = 1 ∨ s.dispCfg.depth = 2 then s.dispCfg.depth.toNat else n.bits)) a = true

/-- A BLIT command runs: its ten checks pass (R66 to R75), its header, payload and framebuffer are plain memory
(R44, R46), and header and payload share no byte with the framebuffer (R52). What `rangesMeet` says is
`rangesMeet_iff` of Laws/Memory.lean. -/
abbrev State.blitReady (s : State) (n : Depth) : Prop :=
  s.firstError n = none ∧ s.plain s.srcAddr (s.blit n).imageLen = true ∧
    s.plain s.fbAddr (s.blit n).fbLen = true ∧
    rangesMeet s.srcAddr (s.blit n).imageLen s.fbAddr (s.blit n).fbLen = false

/-- The framebuffer range of a BLIT command (R38, R45). -/
abbrev State.inFramebuffer (s : State) (n : Depth) (a : Nat) : Prop :=
  inRange s.fbAddr (s.blit n).fbLen a = true

/-- The header and payload range of a BLIT command (R38, R45). -/
abbrev State.inImage (s : State) (n : Depth) (a : Nat) : Prop :=
  inRange s.srcAddr (s.blit n).imageLen a = true

/-- Whether some region of the given kind shares a byte with a range. -/
abbrev State.meetsRegion (s : State) (k : RegionKind) (base : Word) (len : Nat) : Prop :=
  ∃ r ∈ s.config.regions, r.kind = k ∧ ∃ a, a < 2 ^ 32 ∧ inRange r.base r.len a = true ∧ inRange base len a = true

/-- The parameter and operand registers and CMD are the same in two states. -/
abbrev State.sameOperands (s t : State) : Prop :=
  t.cmd = s.cmd ∧ t.srcAddr = s.srcAddr ∧ t.srcSize = s.srcSize ∧ t.fbAddr = s.fbAddr ∧
    t.dispCfg = s.dispCfg ∧ t.dispDim = s.dispDim ∧ t.in0 = s.in0 ∧ t.in1 = s.in1

end Sys2Proof.Machine
end

