-- ==== Sys2Proof/Certificates/Slice0/Obligations.lean ====
section
/-! DEFINITION. The statements for the provers, one `def Obligations.<Name> : Prop` each, from the numbered rules of
spec/. The spec-level words they use (`State.firstError`, `State.blitReady`, ...) are defined in Safety.lean. -/

open Sys2Proof Sys2Proof.Machine

/-! ## Encoding (30_encoding.md) -/

/-- R58, R59: every word has at most one meaning, that of the one row whose bit pattern it is, and every command
with every operand decodes from its own pattern. -/
def Obligations.DecodeInvertsEncode : Prop :=
  ∀ (w : Word) (i : Instr), decode w = .ok i ↔ w = encode i

/-- R59: a word that fails one of the three checks makes its command end with IllegalCommand and nothing else; every
other word runs the row of R58 with its OP and FAST. -/
def Obligations.EveryWordIsARowOrIllegal : Prop :=
  ∀ s : State,
    let rsv := s.cmd.extractLsb' 5 27
    let op := (s.cmd.extractLsb' 0 4).toNat
    let fast := s.cmd.getLsbD 4
    let illegal := rsv ≠ 0 ∨ ¬(1 ≤ op ∧ op ≤ 7) ∨ (fast = true ∧ op ≠ 1 ∧ op ≠ 2)
    (illegal → s.engineStep =
      .next { s with status := { s.status with err := .illegalCommand, done := true }, fsm := .idle }) ∧
    (¬illegal → ∃ i, i.fields.op.toNat = op ∧ i.fields.fast = fast ∧ s.engineStep = exec i s)

/-- R58 (sanity): the bit patterns as the spec writes them out. -/
def Obligations.WrittenPatternsDecode : Prop :=
  decode 0b00000000000000000000000000000001 = .ok (.blit1 false) ∧
    decode 0b00000000000000000000000000010001 = .ok (.blit1 true) ∧
    decode 0b00000000000000000000000000010010 = .ok (.blit2 true) ∧
    decode 0b00000000000000000000000000000100 = .ok .xpose8

/-! ## The step (10_state.md section 3) -/

/-- R26, R59: a step that the engine takes while BUSY is `exec` of the command CMD decodes to, and its only other
effect is on the model's own record of whose turn it is. -/
def Obligations.StepRunsTheDecodedCommand : Prop :=
  ∀ (s : State) (i : Instr), s.validInstance → s.fsm = .busy → s.turns.head? ≠ some .host →
    decode s.cmd = .ok i → step s = exec i { s with turns := s.turns.tail }

/-- R26, R119, R125: a step that the host takes handles the oldest waiting event; with none waiting nothing changes
but whose turn it is. While idle only the host moves. -/
def Obligations.StepHandlesTheOldestEvent : Prop :=
  ∀ (s : State), s.validInstance →
    (s.fsm = .idle →
      (∀ e rest, s.events = e :: rest → step s = State.handle { s with events := rest } e) ∧
      (s.events = [] → step s = .next s)) ∧
    (∀ ts, s.fsm = .busy → s.turns = .host :: ts →
      (∀ e rest, s.events = e :: rest → step s = State.handle { s with events := rest, turns := ts } e) ∧
      (s.events = [] → step s = .next { s with turns := ts }))

/-- R7: an instantiation with equal magics is refused, whatever the rest of the state. -/
def Obligations.EqualMagicsAreRefused : Prop :=
  ∀ s : State, s.config.magic1bpp = s.config.magic2bpp → step s = .refused .equalMagics

/-- R125 (fairness), in the model's form (assumption 4): a run that finds the engine busy and held off by the host at
each of its first `n + 1` states has `n` below the number of turns it began with. -/
def Obligations.HostHoldsTheEngineOffBoundedly : Prop :=
  ∀ (s : State) (n : Nat),
    (∀ k, k ≤ n → ∃ u, Host.Core.run Sys2Proof.core k s = .next u ∧ u.fsm = .busy ∧ u.mover = .host) →
      n < s.turns.length

/-- R26, R28, R106: every engine step, of every command and of an illegal one, ends idle with DONE set, and leaves
CMD, the parameter and operand registers, OVR, the configuration and the outside world's records alone. -/
def Obligations.EngineStepCompletesTheCommand : Prop :=
  ∀ s t : State, s.engineStep = .next t →
    t.fsm = .idle ∧ t.status.done = true ∧ s.sameOperands t ∧ t.status.ovr = s.status.ovr ∧
      t.config = s.config ∧ t.events = s.events ∧ t.turns = s.turns ∧ t.reads = s.reads ∧
      t.portOwner = s.portOwner ∧ t.draws = s.draws

/-! ## The register port (10_state.md section 2) -/

/-- R18: the STATUS word bit by bit; a write while idle clears DONE and OVR by ones and nothing else; a CMD write
clears the rest and keeps OVR. (R122 says of ERR that it holds the previous code until completion; assumption 12 says
why R18 is followed.) -/
def Obligations.StatusRegister : Prop :=
  (∀ s : State,
    (s.statusWord.getLsbD 0 = true ↔ s.fsm = .busy) ∧ s.statusWord.getLsbD 1 = s.status.done ∧
      s.statusWord.getLsbD 2 = s.status.upd ∧ s.statusWord.getLsbD 3 = s.status.updFast ∧
      s.statusWord.getLsbD 4 = s.status.clr ∧ s.statusWord.getLsbD 5 = s.status.fastpath ∧
      s.statusWord.getLsbD 6 = s.status.ovr ∧ s.statusWord.getLsbD 7 = false ∧
      s.statusWord.extractLsb' 8 4 = s.status.err.code ∧ (∀ i, 12 ≤ i → s.statusWord.getLsbD i = false)) ∧
  (∀ (s : State) (w : Word), s.fsm = .idle →
    s.writeOffset 0x04 w =
      { s with status := { s.status with done := s.status.done && !w.getLsbD 1,
                                         ovr := s.status.ovr && !w.getLsbD 6 } } ∧
    (s.writeOffset 0x00 w).status =
      { done := false, upd := false, updFast := false, clr := false, fastpath := false,
        ovr := s.status.ovr, err := .ok } ∧
    (s.writeOffset 0x00 w).fsm = .busy)

/-- R105: the numbers of the result codes; 10 to 15 are never read from any state. -/
def Obligations.ErrorCodesHaveTheirNumbers : Prop :=
  [ErrorCode.ok, .invalidArgument, .malformedHeader, .unsupportedFormat, .depthMismatch, .unsupportedRotation,
    .invalidDimensions, .sizeMismatch, .truncatedBuffer, .illegalCommand].map (fun e => e.code.toNat) =
      [0, 1, 2, 3, 4, 5, 6, 7, 8, 9] ∧
    ∀ s : State, (s.statusWord.extractLsb' 8 4).toNat ≤ 9

/-- R18, R27 ("sticky"): OVR goes from 1 to 0 only by a write of STATUS bit 6 while idle, or by the reset input. -/
def Obligations.OverrunIsSticky : Prop :=
  ∀ s t : State, step s = .next t → s.status.ovr = true → t.status.ovr = false →
    ∃ e rest, s.events = e :: rest ∧
      (e = .reset ∨ ∃ host addr w, e = .regWrite host addr 32 w ∧ s.fsm = .idle ∧
        s.windowOffset addr 32 = some 0x04 ∧ w.getLsbD 6 = true)

/-- R19 to R23, R21: a parameter register written while idle reads back the word written (DISP_CFG its low half), and
every other register reads as before; nothing else changes but the port's ownership (R117). -/
def Obligations.ParameterWriteReadsBack : Prop :=
  ∀ (s : State) (host : Nat) (addr w : Word) (r : Reg), s.fsm = .idle → r.isParameter = true →
    s.windowOffset addr 32 = some r.offset → (∀ o, s.portOwner = some o → o.host = host) →
    ∃ t, s.regWrite host addr 32 w = .next t ∧
      t.readOffset r.offset = (if r = .dispCfg then w &&& 0x0000FFFF#32 else w) ∧
      (∀ off, off ≠ r.offset → t.readOffset off = s.readOffset off) ∧
      t.portOwner = some { host := host, started := false } ∧
      t.fsm = s.fsm ∧ t.status = s.status ∧ t.mem = s.mem ∧ t.config = s.config ∧ t.events = s.events ∧
      t.turns = s.turns ∧ t.reads = s.reads ∧ t.updates = s.updates ∧ t.draws = s.draws

/-- R25: reserved offsets read 0 and ignore writes; so do the reserved bits of STATUS and DISP_CFG. That CMD[31:5] is
left out, because CMD keeps every written bit (R17), is the model's reading of R25 (assumption 11). -/
def Obligations.ReservedOffsetsAndFields : Prop :=
  (∀ (s : State) (off : Nat), 0x2C ≤ off → off ≤ 0xFC →
    s.readOffset off = 0 ∧ ∀ w, s.fsm = .idle → s.writeOffset off w = s) ∧
  (∀ (s : State) (w : Word),
    (s.readOffset 0x14).extractLsb' 16 16 = 0 ∧ (s.readOffset 0x04).getLsbD 7 = false ∧
      (s.readOffset 0x04).extractLsb' 12 20 = 0 ∧
      s.writeOffset 0x14 w = s.writeOffset 0x14 (w &&& 0x0000FFFF#32) ∧
      s.writeOffset 0x04 w = s.writeOffset 0x04 (w &&& 0x00000042#32))

/-- R24, over every step: OUT0 and OUT1 change only in an engine step of a primitive that raises no error (OUT1 only
in XPOSE8's) or by the reset input; a port write of either is ignored. -/
def Obligations.OnlyPrimitivesWriteResults : Prop :=
  (∀ s t : State, step s = .next t → ¬(t.out0 = s.out0 ∧ t.out1 = s.out1) →
    (s.mover = .engine ∧ t.status.err = s.status.err ∧
      (decode s.cmd = .ok .xpose8 ∨
        (t.out1 = s.out1 ∧ ∃ i ∈ [Instr.rev8, .mask1, .mask2, .lut2], decode s.cmd = .ok i))) ∨
    (s.mover = .host ∧ s.events.head? = some .reset)) ∧
  (∀ (s : State) (w : Word), s.fsm = .idle → s.writeOffset 0x24 w = s ∧ s.writeOffset 0x28 w = s)

/-- R17, R26: a CMD write while idle latches the word and starts the command, whatever the word; it reads back. -/
def Obligations.CmdWriteStartsACommand : Prop :=
  ∀ (s : State) (host : Nat) (addr w : Word), s.fsm = .idle → s.windowOffset addr 32 = some 0x00 →
    s.regWrite host addr 32 w =
      .next { s with
        cmd := w
        fsm := .busy
        status := { done := false, upd := false, updFast := false, clr := false, fastpath := false,
                    ovr := s.status.ovr, err := .ok }
        portOwner := s.portOwner.map fun o => if o.host = host then { o with started := true } else o } ∧
    (s.writeOffset 0x00 w).readOffset 0x00 = w

/-- R27, in a run R117 admits (no other host owns the port when a parameter register is written): a write while busy,
to any offset, is dropped and sets OVR; a read is served with the current value. -/
def Obligations.BusyWritesAreDropped : Prop :=
  ∀ (s : State) (host : Nat) (addr w : Word) (off : Nat), s.fsm = .busy → s.windowOffset addr 32 = some off →
    ((∀ o r, s.portOwner = some o → Reg.ofOffset off = some r → r.isParameter = true → o.host = host) →
      s.regWrite host addr 32 w = .next { s with status := { s.status with ovr := true } }) ∧
    s.regRead host addr 32 = .next { s with reads := s.reads ++ [{ addr := addr, value := s.readOffset off }] }

/-- R47: an access that is not 32 bits wide, not at a 4-byte-aligned offset of the window or outside the window is
refused; every other read changes no register and no memory. That an offset is the address less REG_BASE modulo 2^32,
so that a window past 0xFFFFFFFF goes on at 0, is the model's choice (assumption 1); so is the port's owner, which a
read may change (assumption 5). -/
def Obligations.MisshapenAccessesAreRefused : Prop :=
  ∀ (s : State) (host : Nat) (addr w : Word) (bits : Nat),
    let off := (addr - s.config.regBase).toNat
    ((bits ≠ 32 ∨ off % 4 ≠ 0 ∨ 0x100 ≤ off) →
      s.regRead host addr bits = .refused .registerAccess ∧
      s.regWrite host addr bits w = .refused .registerAccess) ∧
    (bits = 32 → off % 4 = 0 → off < 0x100 →
      ∃ p, s.regRead host addr bits =
        .next { s with reads := s.reads ++ [{ addr := addr, value := s.readOffset off }], portOwner := p })

/-- R117, as the model reads it (assumption 5 says when a host owns the port): a parameter write by a host while another
owns the port is refused; the owner's read of STATUS, OUT0 or OUT1 once its command is over gives the port up. (That an
accepted parameter write takes it is in ParameterWriteReadsBack.) -/
def Obligations.HostsMayNotInterleave : Prop :=
  ∀ (s : State) (host : Nat) (addr w : Word) (r : Reg) (o : PortOwner),
    s.windowOffset addr 32 = some r.offset →
    (r.isParameter = true → s.portOwner = some o → o.host ≠ host →
      s.regWrite host addr 32 w = .refused .hostsInterleave) ∧
    (r ∈ [Reg.status, .out0, .out1] → s.fsm = .idle → s.portOwner = some { host := host, started := true } →
      ∃ t, s.regRead host addr 32 = .next t ∧ t.portOwner = none)

/-- R61: a poll reads the register; it ends when the masked value is the one awaited and comes again otherwise. That it
comes again ahead of every other waiting event is the model's choice (assumption 3). -/
def Obligations.PollRepeatsUntilItsValue : Prop :=
  ∀ (s : State) (host : Nat) (addr mask value : Word) (off : Nat), s.windowOffset addr 32 = some off →
    ∃ t, s.regRead host addr 32 = .next t ∧
      (s.readOffset off &&& mask = value → s.pollOnce host addr mask value = .next t) ∧
      (s.readOffset off &&& mask ≠ value →
        s.pollOnce host addr mask value = .next { t with events := .poll host addr mask value :: s.events })

/-! ## The primitives (41_primitives.md) -/

/-- R87: REV8, with everything it leaves alone. -/
def Obligations.Rev8ReversesTheByte : Prop :=
  decode 0x00000003#32 = .ok .rev8 ∧
  ∀ s : State, ∃ o : Word,
    exec .rev8 s = .next { s with out0 := o, status := { s.status with done := true }, fsm := .idle } ∧
      (∀ i, i < 8 → o.getLsbD i = s.in0.getLsbD (7 - i)) ∧ (∀ i, 8 ≤ i → o.getLsbD i = false)

/-- R88: XPOSE8, with everything it leaves alone. -/
def Obligations.Xpose8TransposesTheMatrix : Prop :=
  decode 0x00000004#32 = .ok .xpose8 ∧
  ∀ s : State, ∃ lo hi : Word,
    exec .xpose8 s =
      .next { s with out0 := lo, out1 := hi, status := { s.status with done := true }, fsm := .idle } ∧
      ∀ r c, r < 8 → c < 8 →
        (hi ++ lo : BitVec 64).getLsbD (8 * c + r) = (s.in1 ++ s.in0 : BitVec 64).getLsbD (8 * r + c)

/-- The informative note of 41_primitives.md section 2: the SWAR sequence at strides 7, 14, 28, with the masks the spec
supplies from general knowledge (93_implementation_defined.md, G1), computes the transpose. -/
def Obligations.SwarSequenceTransposes : Prop :=
  ∀ x : BitVec 64,
    let t₁ := (x ^^^ (x >>> 7)) &&& 0x00AA00AA00AA00AA#64
    let x₁ := x ^^^ t₁ ^^^ (t₁ <<< 7)
    let t₂ := (x₁ ^^^ (x₁ >>> 14)) &&& 0x0000CCCC0000CCCC#64
    let x₂ := x₁ ^^^ t₂ ^^^ (t₂ <<< 14)
    let t₃ := (x₂ ^^^ (x₂ >>> 28)) &&& 0x00000000F0F0F0F0#64
    x₂ ^^^ t₃ ^^^ (t₃ <<< 28) = xpose8Word x

/-- R89: MASK1 for every count, all 32 bits of IN0. -/
def Obligations.Mask1SelectsTheFirstPixels : Prop :=
  decode 0x00000005#32 = .ok .mask1 ∧
  ∀ s : State,
    (s.in0.toNat ≤ 8 → ∃ o : Word,
      exec .mask1 s = .next { s with out0 := o, status := { s.status with done := true }, fsm := .idle } ∧
        ∀ i, o.getLsbD i = (decide (8 - s.in0.toNat ≤ i) && decide (i < 8))) ∧
    (8 < s.in0.toNat → exec .mask1 s =
      .next { s with status := { s.status with err := .invalidArgument, done := true }, fsm := .idle })

/-- R90: MASK2 for every count, all 32 bits of IN0. -/
def Obligations.Mask2SelectsTheFirstPixels : Prop :=
  decode 0x00000006#32 = .ok .mask2 ∧
  ∀ s : State,
    (s.in0.toNat ≤ 4 → ∃ o : Word,
      exec .mask2 s = .next { s with out0 := o, status := { s.status with done := true }, fsm := .idle } ∧
        ∀ i, o.getLsbD i = (decide (8 - 2 * s.in0.toNat ≤ i) && decide (i < 8))) ∧
    (4 < s.in0.toNat → exec .mask2 s =
      .next { s with status := { s.status with err := .invalidArgument, done := true }, fsm := .idle })

/-- R91: LUT2, pixel by pixel, with everything it leaves alone; the map is one-to-one. -/
def Obligations.Lut2MergesThePlanes : Prop :=
  decode 0x00000007#32 = .ok .lut2 ∧
  (∀ s : State, ∃ o : Word,
    exec .lut2 s = .next { s with out0 := o, status := { s.status with done := true }, fsm := .idle } ∧
      (∀ k, k < 4 → (o.extractLsb' (6 - 2 * k) 2).toNat =
        3 - (2 * (s.in0.getLsbD (7 - k)).toNat + (s.in0.getLsbD (3 - k)).toNat)) ∧
      (∀ i, 8 ≤ i → o.getLsbD i = false)) ∧
  (∀ i j : Byte, lut i = lut j → i = j)

/-! ## BLIT: errors and what the spec excludes (40_blit_common.md section 3, 20_memory.md, 60_exceptions.md) -/

/-- R66 to R76: a BLIT reports the first of the ten checks that fails, and has no other effect. `State.firstError` is
the chain of checks on the header's bytes. (The header, if it is read, is plain memory: R44, R46.) -/
def Obligations.BlitReportsTheFirstFailingCheck : Prop :=
  ∀ (s : State) (n : Depth) (fast : Bool) (e : ErrorCode),
    (s.headerRead → s.plain s.srcAddr 22 = true) → s.firstError n = some e →
    exec (n.instr fast) s = .next { s with status := { s.status with err := e, done := true }, fsm := .idle }

/-- R106: an engine step that ends with an error (from a state whose ERR was 0, as the start of a command leaves it)
has written ERR, DONE and BUSY and nothing else. -/
def Obligations.ErrorsWriteOnlyStatus : Prop :=
  ∀ s t : State, s.status.err = .ok → s.engineStep = .next t → t.status.err ≠ .ok →
    t = { s with status := { s.status with err := t.status.err, done := true }, fsm := .idle }

/-- R52 (assumption 8): a BLIT whose checks pass and whose header and payload share a byte with its framebuffer is
refused. -/
def Obligations.OverlappingBuffersAreRefused : Prop :=
  ∀ (s : State) (n : Depth) (fast : Bool), s.firstError n = none →
    s.plain s.srcAddr (s.blit n).imageLen = true → s.plain s.fbAddr (s.blit n).fbLen = true →
    (∃ a, a < 2 ^ 32 ∧ s.inImage n a ∧ s.inFramebuffer n a) →
    exec (n.instr fast) s = .refused .bufferOverlap

/-- R46 and R44, in the order of assumption 9, on any platform: a BLIT that must access a range which shares a byte with
one that does not respond is stuck there, and one that must access a range which shares a byte with one that has side
effects is refused; the header is looked at before the checks, header and payload after them, the framebuffer last. -/
def Obligations.BuffersOffPlainMemoryStop : Prop :=
  ∀ (s : State) (n : Depth) (fast : Bool),
    let exceptional := fun base len => s.meetsRegion .noResponse base len ∨ s.meetsRegion .sideEffects base len
    let stopsAt := fun base len =>
      (s.meetsRegion .noResponse base len → exec (n.instr fast) s = .fault .memoryNoResponse) ∧
      (¬s.meetsRegion .noResponse base len → s.meetsRegion .sideEffects base len →
        exec (n.instr fast) s = .refused .sideEffectMemory)
    (s.headerRead → stopsAt s.srcAddr 22) ∧
    (s.firstError n = none → ¬exceptional s.srcAddr 22 →
      stopsAt s.srcAddr (s.blit n).imageLen ∧
      (¬exceptional s.srcAddr (s.blit n).imageLen → stopsAt s.fbAddr (s.blit n).fbLen))

/-- R51: while any BLIT is BUSY, one that will validate or one that will fail, another agent's write of its header,
payload or framebuffer and read of its framebuffer are refused; every other access of plain memory goes on. The ranges
are those of R38 and R39 on the registers and the header's bytes (what they are where those rules give none is
assumption 13); for a BLIT that validates they are the ranges it uses. -/
def Obligations.OtherAgentsMayNotRace : Prop :=
  ∀ (s : State) (n : Depth) (fast : Bool) (a : Word) (v : Byte), s.fsm = .busy →
    decode s.cmd = .ok (n.instr fast) → s.plain a 1 = true →
    (s.inDeclaredFramebuffer n a.toNat →
      s.memRead a = .refused .bufferRace ∧ s.memWrite a v = .refused .bufferRace) ∧
    (s.inDeclaredImage a.toNat → s.memWrite a v = .refused .bufferRace) ∧
    (¬s.inDeclaredFramebuffer n a.toNat →
      s.memRead a = .next { s with reads := s.reads ++ [{ addr := a, value := (s.mem.read a.toNat).setWidth 32 }] }) ∧
    (¬s.inDeclaredFramebuffer n a.toNat → ¬s.inDeclaredImage a.toNat →
      s.memWrite a v = .next { s with mem := s.mem.write a.toNat v }) ∧
    (s.firstError n = none → ((s.inDeclaredFramebuffer n a.toNat ↔ s.inFramebuffer n a.toNat) ∧
      (s.inDeclaredImage a.toNat ↔ s.inImage n a.toNat)))

/-! ## BLIT: what it does (40_blit_common.md, 42_blit_1bpp.md, 43_blit_2bpp.md) -/

/-- The spec's own inference in 40_blit_common.md section 1: every value a BLIT computes fits its stated bound. -/
def Obligations.BlitValuesFitTheirWidths : Prop :=
  ∀ (s : State) (n : Depth),
    let b := s.blit n
    b.sw ≤ 65535 ∧ b.sh ≤ 65535 ∧ b.lw ≤ 65535 ∧ b.lh ≤ 65535 ∧ b.nw ≤ 65535 ∧ b.nh ≤ 65535 ∧
      b.src1Pitch ≤ 16383 ∧ b.dstPitch ≤ 16383 ∧ Depth.one.expSize b.sw b.sh ≤ 536862720 ∧
      Depth.two.expSize b.sw b.sh ≤ 1073725440 ∧ b.fbLen ≤ 1073659905 ∧
      ∀ x y, x < b.copyW → y < b.copyH →
        match b.rot with
        | .deg0 => x < b.nw ∧ y < b.nh
        | .deg90 => y < b.nw ∧ x ≤ b.nh - 1 ∧ 1 ≤ b.nh
        | .deg180 => x ≤ b.nw - 1 ∧ 1 ≤ b.nw ∧ y ≤ b.nh - 1 ∧ 1 ≤ b.nh
        | .deg270 => y ≤ b.nw - 1 ∧ 1 ≤ b.nw ∧ x < b.nh

/-- R80: the four transforms; each maps the logical rectangle one-to-one onto the native rectangle; and at 270°, for a
native width that is a multiple of 4, the row-group index and the slot in the group are reversed. -/
def Obligations.TransformIsOneToOne : Prop :=
  ∀ b : Blit,
    (∀ x y, b.toNative x y =
      match b.rot with
      | .deg0 => (x, y)
      | .deg90 => (y, b.lw - 1 - x)
      | .deg180 => (b.lw - 1 - x, b.lh - 1 - y)
      | .deg270 => (b.lh - 1 - y, x)) ∧
    (∀ x y, x < b.lw → y < b.lh → (b.toNative x y).1 < b.nw ∧ (b.toNative x y).2 < b.nh) ∧
    (∀ x y x' y', x < b.lw → y < b.lh → x' < b.lw → y' < b.lh →
      b.toNative x y = b.toNative x' y' → x = x' ∧ y = y') ∧
    (∀ nx ny, nx < b.nw → ny < b.nh → ∃ x y, x < b.lw ∧ y < b.lh ∧ b.toNative x y = (nx, ny)) ∧
    (b.rot = .deg270 → b.nw % 4 = 0 → ∀ x y, y < b.lh →
      (b.toNative x y).1 / 4 = b.nw / 4 - 1 - y / 4 ∧ (b.toNative x y).1 % 4 = 3 - y % 4)

/-- R81, R82: each of the eight converters, written as its own rule writes it, is the one pixel loop through the
transform of R80 (the 2bpp 270° one, whose rule reverses groups and slots, for a native width that is a multiple of
4, R75). -/
def Obligations.ConvertersFollowTheTransform : Prop :=
  ∀ (b : Blit) (m : Memory),
    let one := b.forPixels (fun x y m =>
      m.setBit b.fb (b.dstOff1 (b.toNative x y).1 (b.toNative x y).2) (dstBit1 (b.toNative x y).1)
        (b.srcPix1 m x y)) m
    let two := b.forPixels (fun x y m =>
      m.setField2 b.fb (b.dstOff2 (b.toNative x y).1 (b.toNative x y).2) (dstSlot2 (b.toNative x y).1)
        (3#2 - b.srcVal2 m x y)) m
    match b.rot with
    | .deg0 => b.convert1Deg0 m = one ∧ b.convert2Deg0 m = two
    | .deg90 => b.convert1Deg90 m = one ∧ b.convert2Deg90 m = two
    | .deg180 => b.convert1Deg180 m = one ∧ b.convert2Deg180 m = two
    | .deg270 => b.convert1Deg270 m = one ∧ (b.nw % 4 = 0 → b.convert2Deg270 m = two)

/-- R83, R92, R45: a ready BLIT1 completes, with these flags and this one request; no other register changes, and no
byte outside the framebuffer does. -/
def Obligations.Blit1Completes : Prop :=
  ∀ (s : State) (fast : Bool), s.mem.wf → s.blitReady .one →
    let b := s.blit .one
    ∃ m : Memory,
      exec (.blit1 fast) s =
        .next { s with
          mem := m
          fsm := .idle
          status := { done := true, upd := true, updFast := fast,
                      clr := s.status.clr || !(decide (b.lw ≤ b.sw) && decide (b.lh ≤ b.sh)),
                      fastpath := s.status.fastpath ||
                        (decide (s.dispCfg.rot = 0) && decide (b.sw = b.lw) && decide (b.sh = b.lh)),
                      ovr := s.status.ovr, err := .ok }
          updates := s.updates ++ [if fast then .fast else .full] } ∧
      ∀ a, a < 2 ^ 32 → ¬s.inFramebuffer .one a → m.read a = s.mem.read a

/-- R83, R99, R45: the same of BLIT2; FASTPATH is never set. -/
def Obligations.Blit2Completes : Prop :=
  ∀ (s : State) (fast : Bool), s.mem.wf → s.blitReady .two →
    let b := s.blit .two
    ∃ m : Memory,
      exec (.blit2 fast) s =
        .next { s with
          mem := m
          fsm := .idle
          status := { done := true, upd := true, updFast := fast,
                      clr := s.status.clr || !(decide (b.lw ≤ b.sw) && decide (b.lh ≤ b.sh)),
                      fastpath := s.status.fastpath, ovr := s.status.ovr, err := .ok }
          updates := s.updates ++ [if fast then .fast else .full] } ∧
      ∀ a, a < 2 ^ 32 → ¬s.inFramebuffer .two a → m.read a = s.mem.read a

/-- R93 to R98, R40: after a ready BLIT1, native pixel `T(x, y)` is source pixel `(x, y)` of the payload's bytes, and
every other bit of the framebuffer is 0 if it was cleared or is padding on the fast path, and unchanged otherwise. -/
def Obligations.Blit1WritesItsPixels : Prop :=
  ∀ (s : State) (fast : Bool), s.mem.wf → s.blitReady .one →
    let b := s.blit .one
    let fullscreen := s.dispCfg.rot = 0 ∧ b.sw = b.lw ∧ b.sh = b.lh
    ∃ t, exec (.blit1 fast) s = .next t ∧ (fullscreen → t.status.fastpath = true) ∧
      (∀ x y, x < b.copyW → y < b.copyH →
        b.nativePix1 t.mem (b.toNative x y).1 (b.toNative x y).2 = s.sourceBit x y) ∧
      (∀ o j, o < b.fbLen → j < 8 →
        (∀ x y, x < b.copyW → y < b.copyH →
          ¬(b.dstOff1 (b.toNative x y).1 (b.toNative x y).2 = o ∧ dstBit1 (b.toNative x y).1 = j)) →
        (t.mem.readAt b.fb o).getLsbD j =
          if fullscreen ∨ b.sw < b.lw ∨ b.sh < b.lh then false else (s.mem.readAt b.fb o).getLsbD j)

/-- R100 to R104, R41: after a ready BLIT2, native pixel `T(x, y)` is 3 minus source value `(x, y)` of the payload's
bytes, which is what the LUT gives for its plane bits, and every other two-bit field of the framebuffer is white. -/
def Obligations.Blit2WritesItsPixels : Prop :=
  (∀ (s : State) (fast : Bool), s.mem.wf → s.blitReady .two →
    let b := s.blit .two
    ∃ t, exec (.blit2 fast) s = .next t ∧
      (∀ x y, x < b.copyW → y < b.copyH →
        (b.nativePix2 t.mem (b.toNative x y).1 (b.toNative x y).2).toNat = 3 - s.sourceValue x y) ∧
      (∀ o k, o < b.fbLen → k < 4 →
        (∀ x y, x < b.copyW → y < b.copyH →
          ¬(b.dstOff2 (b.toNative x y).1 (b.toNative x y).2 = o ∧ dstSlot2 (b.toNative x y).1 = k)) →
        field2Of (t.mem.readAt b.fb o) k = 3#2)) ∧
  (∀ (i : Byte) (k : Nat), k < 4 → field2Of (lut i) k = 3#2 - planeValue (i.getLsbD (7 - k)) (i.getLsbD (3 - k)))

/-- The spec's own inference in 40_blit_common.md section 7 (rotation consistency): the same image on the same display
at two rotations, read back through each rotation's transform, gives the same logical pixels. -/
def Obligations.RotationsAgree : Prop :=
  ∀ (s : State) (n : Depth) (r : BitVec 8) (fast fast' : Bool),
    let s' := { s with dispCfg := { s.dispCfg with rot := r } }
    s.mem.wf → s.blitReady n → s'.blitReady n →
    ∃ t t', exec (n.instr fast) s = .next t ∧ exec (n.instr fast') s' = .next t' ∧
      ∀ x y, x < (s.blit n).copyW → y < (s.blit n).copyH →
        let p := (s.blit n).toNative x y
        let p' := (s'.blit n).toNative x y
        match n with
        | .one => (s.blit n).nativePix1 t.mem p.1 p.2 = (s'.blit n).nativePix1 t'.mem p'.1 p'.2
        | .two => (s.blit n).nativePix2 t.mem p.1 p.2 = (s'.blit n).nativePix2 t'.mem p'.1 p'.2

/-- The spec's own inference in 40_blit_common.md section 7 (boundary safety and clearing): a second BLIT of the same
image on the same display leaves every byte as the first left it. -/
def Obligations.SecondBlitChangesNoByte : Prop :=
  ∀ (s t : State) (n : Depth) (fast fast' : Bool), s.mem.wf → s.blitReady n →
    exec (n.instr fast) s = .next t →
    ∃ u, exec (n.instr fast') (t.startCommand (encode (n.instr fast'))) = .next u ∧
      ∀ a, a < 2 ^ 32 → u.mem.read a = t.mem.read a

/-- R45 (reads): a BLIT's result depends on no byte outside its header, payload and framebuffer; one that fails
depends on the header alone, and on no byte when it fails before the header is read. -/
def Obligations.BlitReadsOnlyItsBuffers : Prop :=
  ∀ (s : State) (m : Memory) (n : Depth) (fast : Bool), s.mem.wf → m.wf →
    let s' := { s with mem := m }
    (s.blitReady n → (∀ a, a < 2 ^ 32 → s.inImage n a ∨ s.inFramebuffer n a → m.read a = s.mem.read a) →
      ∃ t t', exec (n.instr fast) s = .next t ∧ exec (n.instr fast) s' = .next t' ∧
        { t' with mem := t.mem } = t ∧
        ∀ a, a < 2 ^ 32 → s.inFramebuffer n a → t'.mem.read a = t.mem.read a) ∧
    ((s.headerRead → ∀ a, a < 2 ^ 32 → inRange s.srcAddr 22 a = true → m.read a = s.mem.read a) →
      s'.firstError n = s.firstError n)

/-- R99 (corner cases): after a BLIT2 the framebuffer's old content is not visible, at any size and rotation. -/
def Obligations.Blit2HidesTheOldFramebuffer : Prop :=
  ∀ (s : State) (m : Memory) (fast : Bool), s.mem.wf → m.wf → s.blitReady .two →
    (∀ a, a < 2 ^ 32 → s.inImage .two a → m.read a = s.mem.read a) →
    ∃ t t', exec (.blit2 fast) s = .next t ∧ exec (.blit2 fast) { s with mem := m } = .next t' ∧
      ∀ a, a < 2 ^ 32 → s.inFramebuffer .two a → t'.mem.read a = t.mem.read a

/-- R64: the eight checksum bytes change neither the checks nor what a BLIT does to the framebuffer and to STATUS. -/
def Obligations.ChecksumPrefixIsIgnored : Prop :=
  ∀ (s : State) (n : Depth) (fast : Bool) (i : Nat) (v : Byte), s.mem.wf → i < 8 →
    let s' := { s with mem := s.mem.writeAt s.srcAddr (0x0E + i) v }
    s'.firstError n = s.firstError n ∧
    (s.blitReady n → ∃ t t', exec (n.instr fast) s = .next t ∧ exec (n.instr fast) s' = .next t' ∧
      { t' with mem := t.mem } = t ∧
      ∀ a, a < 2 ^ 32 → s.inFramebuffer n a → t'.mem.read a = t.mem.read a)

/-- R112, over every step: UPDATE_REQ pulses only in the engine step of a BLIT that ends without an error, exactly
once, of the kind FAST selects, mirrored in STATUS; a primitive and a failed command leave UPD and UPD_FAST 0 (as the
start of the command left them). -/
def Obligations.OneRequestPerSuccessfulBlit : Prop :=
  (∀ s t : State, step s = .next t → t.updates ≠ s.updates →
    ∃ (n : Depth) (fast : Bool), s.mover = .engine ∧ decode s.cmd = .ok (n.instr fast) ∧
      t.status.err = .ok ∧ t.status.upd = true ∧ t.status.updFast = fast ∧
      t.updates = s.updates ++ [if fast then .fast else .full]) ∧
  (∀ s t : State, s.running → s.engineStep = .next t →
    (t.updates ≠ s.updates ↔ t.status.upd = true) ∧
    (t.status.upd = true ↔ t.status.err = .ok ∧ ∃ n fast, decode s.cmd = .ok (Depth.instr n fast)) ∧
    (t.status.upd = false → t.status.updFast = false))

/-- R45, R31, R120: a byte of memory changes only in the engine step of a BLIT, inside its framebuffer range; by
another agent's write of that byte; or by a reset while a BLIT runs, inside its framebuffer range. -/
def Obligations.OnlyTheseStepsChangeMemory : Prop :=
  ∀ (s t : State) (a : Nat), s.mem.wf → step s = .next t → a < 2 ^ 32 → t.mem.read a ≠ s.mem.read a →
    (∃ (n : Depth) (fast : Bool), s.fsm = .busy ∧ decode s.cmd = .ok (n.instr fast) ∧ s.inFramebuffer n a ∧
      (s.mover = .engine ∨ s.events.head? = some .reset)) ∨
    (∃ (v : Byte) (addr : Word), s.mover = .host ∧ s.events.head? = some (.memWrite addr v) ∧ addr.toNat = a)

/-! ## Reset (70_reset_and_hazards.md) -/

/-- R32: the reset state's values: every register reads 0, the state machine is idle, no request. -/
def Obligations.ResetStateIsZero : Prop :=
  (∀ r : Reg, State.reset.getReg r = 0) ∧ State.reset.fsm = .idle ∧ State.reset.updates = []

/-- R119: the reset input, at any time, puts every register to 0 and the state machine to idle, emits no request and
leaves the parameters; memory stays unless a BLIT was running. Of the model's own records it keeps the events, turns,
reads and updates (assumption 3) and the count of free bytes (assumption 2) and forgets the port's owner
(assumption 5): those are the model's choices. -/
def Obligations.ResetInputClearsEveryRegister : Prop :=
  ∀ s t : State, State.handle s .reset = .next t →
    (∀ r : Reg, t.getReg r = 0) ∧ t.fsm = .idle ∧ t.updates = s.updates ∧ t.config = s.config ∧
      (s.runningBlit = none → t = { State.reset with
        mem := s.mem, config := s.config, events := s.events, turns := s.turns, reads := s.reads,
        updates := s.updates, draws := s.draws })

/-- R119: the reset input is accepted while idle and while any command but a BLIT runs. R120, R45 (assumption 8): a
reset that abandons a BLIT that would have run leaves its framebuffer bytes free values (whatever they are), one
that abandons a BLIT that would have failed changes no byte; every other byte is unchanged. -/
def Obligations.ResetAbandonsTheCommand : Prop :=
  ∀ (s : State) (n : Depth) (fast : Bool), s.mem.wf →
    (s.runningBlit = none → ∃ t, State.handle s .reset = .next t ∧ t.mem = s.mem) ∧
    (s.fsm = .busy → decode s.cmd = .ok (n.instr fast) →
      (s.blitReady n → ∃ t, State.handle s .reset = .next t ∧
        (∀ i, i < (s.blit n).fbLen → t.mem.readAt s.fbAddr i = Config.freeByte (s.draws + i)) ∧
        t.draws = s.draws + (s.blit n).fbLen ∧
        ∀ a, a < 2 ^ 32 → ¬s.inFramebuffer n a → t.mem.read a = s.mem.read a) ∧
      (∀ e, (s.headerRead → s.plain s.srcAddr 22 = true) → s.firstError n = some e →
        ∃ t, State.handle s .reset = .next t ∧ t.mem = s.mem))

/-- The spec's own inference in 70_reset_and_hazards.md section 2: straight after reset a BLIT fails with
InvalidArgument and MASK1 and MASK2 return 0, each as the first command to run (assumption 7 says how it comes to
run). -/
def Obligations.FirstCommandsAfterReset : Prop :=
  (∀ (n : Depth) (fast : Bool), ∃ t,
    step (State.reset.withFetchWord 32 (encode (n.instr fast)).toNat) = .next t ∧
      t.status.err = .invalidArgument) ∧
  (∃ t, step (State.reset.withFetchWord 32 5) = .next t ∧ t.out0 = 0 ∧ t.status.err = .ok) ∧
  (∃ t, step (State.reset.withFetchWord 32 6) = .next t ∧ t.out0 = 0 ∧ t.status.err = .ok)

/-! ## The invariant -/

/-- R18, R26, R44: every step, of the engine or the outside world, keeps memory canonical, a running command's flags
clear and STATUS coherent. -/
def Obligations.EveryStepKeepsTheInvariant : Prop :=
  ∀ s t : State, s.Inv → step s = .next t → t.Inv

/-- The reset state meets the invariant. -/
def Obligations.ResetMeetsTheInvariant : Prop := State.reset.Inv

/-! ## Geometry (20_memory.md section 3, 40_blit_common.md section 4) -/

/-- R39, R64, R65, R77, R78, R40 and R41, written out on the registers and the header's bytes for the four legal rotation
codes (R71): the names in which the statements about pixels speak of a BLIT's geometry, and where a native pixel of
either format stands in the framebuffer. -/
def Obligations.BlitGeometryIsAsWritten : Prop :=
  ∀ (s : State) (n : Depth), s.dispCfg.rot.toNat ≤ 3 →
    let b := s.blit n
    let sw := le16 s.mem s.srcAddr 0x04
    let sh := le16 s.mem s.srcAddr 0x06
    b.rot = [Rotation.deg0, .deg90, .deg180, .deg270].getD s.dispCfg.rot.toNat .deg270 ∧
      b.sw = sw ∧ b.sh = sh ∧ b.lw = s.dispDim.lw.toNat ∧ b.lh = s.dispDim.lh.toNat ∧
      b.nw = s.nativeWidth ∧ b.nh = s.nativeHeight ∧ b.dstPitch = s.nativePitch n.bits ∧
      b.fbLen = s.nativeLen n.bits ∧
      b.imageLen = 22 + (if n = .one then sh * ((sw + 7) / 8) else 2 * (sw * ((sh + 7) / 8))) ∧
      b.copyW = min sw s.dispDim.lw.toNat ∧ b.copyH = min sh s.dispDim.lh.toNat ∧
      (b.covers = true ↔ s.dispDim.lw.toNat ≤ sw ∧ s.dispDim.lh.toNat ≤ sh) ∧
      (∀ m nx ny, n = .one → b.nativePix1 m nx ny =
        (m.readAt s.fbAddr (ny * ((s.nativeWidth + 7) / 8) + nx / 8)).getLsbD (7 - nx % 8)) ∧
      (∀ m nx ny, n = .two →
        let byte := m.readAt s.fbAddr (ny * (s.nativeWidth / 4) + nx / 4)
        (b.nativePix2 m nx ny).toNat =
          2 * (byte.getLsbD (7 - 2 * (nx % 4))).toNat + (byte.getLsbD (6 - 2 * (nx % 4))).toNat)

/-! ## Hazards (70_reset_and_hazards.md section 3) -/

/-- R122, R27, R51, over every step: while a command is BUSY no host step but the reset input changes OUT0, OUT1, ERR or
any other bit of STATUS than OVR (which it may set), CMD or an operand, completes the command or pulses a request; a
BLIT's framebuffer, header and payload hold what they held at its start (that the start itself sets ERR to 0, R18 and
R26, against R122's words on ERR, is assumption 12). -/
def Obligations.ResultsHoldUntilCompletion : Prop :=
  ∀ s t : State, step s = .next t → s.fsm = .busy → s.mover = .host → s.events.head? ≠ some .reset →
    t.fsm = .busy ∧ t.out0 = s.out0 ∧ t.out1 = s.out1 ∧ s.sameOperands t ∧ t.updates = s.updates ∧
      (t.status = s.status ∨ t.status = { s.status with ovr := true }) ∧
      ∀ (n : Depth) (fast : Bool) (a : Nat), s.mem.wf → decode s.cmd = .ok (n.instr fast) → a < 2 ^ 32 →
        s.inDeclaredFramebuffer n a ∨ s.inDeclaredImage a → t.mem.read a = s.mem.read a
end

