-- ==== Sys2Proof/Laws/Bits.lean ====
section
/-! SUPPORT. The bit-level laws of the primitives and of the two read-modify-writes: what each result's bits are. -/

namespace Sys2Proof.Machine

@[simp] theorem getLsbD_bitsOf (f : Nat → Bool) (w i : Nat) :
    (bitsOf f w).getLsbD i = (decide (i < w) && f i) := by
  induction w with
  | zero => simp [bitsOf]
  | succ w ih =>
    simp only [bitsOf, BitVec.getLsbD_cons, ih]
    by_cases h : i = w
    · subst h; simp
    · by_cases h' : i < w
      · simp [h, h', Nat.lt_succ_of_lt h']
      · have : ¬ i < w + 1 := by omega
        simp [h, h', this]

/-- Bit `i` of REV8's result is bit `7 - i` of its operand (R87). -/
theorem getLsbD_rev8Byte (b : Byte) {i : Nat} (hi : i < 8) : (rev8Byte b).getLsbD i = b.getLsbD (7 - i) := by
  rw [rev8Byte, getLsbD_bitsOf, decide_eq_true hi, Bool.true_and]

/-- Element `(r, c)` moves to `(c, r)` (R88). -/
theorem getLsbD_xpose8Word (x : BitVec 64) {r c : Nat} (hr : r < 8) (hc : c < 8) :
    (xpose8Word x).getLsbD (8 * c + r) = x.getLsbD (8 * r + c) := by
  have h : 8 * c + r < 64 := by omega
  have hm : (8 * c + r) % 8 = r := by omega
  have hd : (8 * c + r) / 8 = c := by omega
  rw [xpose8Word, getLsbD_bitsOf, decide_eq_true h, Bool.true_and, hm, hd]

/-- The `n` most significant bits, and only they, are set (R89). -/
theorem getLsbD_highMask {n : Nat} (hn : n ≤ 8) (i : Nat) :
    (highMask n).getLsbD i = (decide (8 - n ≤ i) && decide (i < 8)) := by
  have h : ∀ n : Fin 9, ∀ i : Fin 8, (highMask n).getLsbD i = decide (8 - n.val ≤ i.val) := by decide
  by_cases hi : i < 8
  · have := h ⟨n, by omega⟩ ⟨i, hi⟩
    simp only at this
    rw [this, decide_eq_true hi, Bool.and_true]
  · rw [BitVec.getLsbD_of_ge _ _ (by omega)]; simp [hi]

/-- Replacing bit `i` replaces bit `i` alone. -/
theorem getLsbD_setBitOf (v : Byte) {i : Nat} (b : Bool) {j : Nat} (hi : i < 8) (hj : j < 8) :
    (setBitOf v i b).getLsbD j = if i = j then b else v.getLsbD j := by
  have hb : ((BitVec.ofBool b).setWidth 8 <<< i).getLsbD j = (decide (i = j) && b) := by
    by_cases h : i = j
    · subst h; cases b <;> simp [hi]
    · rcases Nat.lt_or_gt_of_ne h with h' | h'
      · have : j - i ≠ 0 := by omega
        cases b <;> simp [hj, h, this]
      · cases b <;> simp [h, h']
  have hm : ((1#8) <<< i).getLsbD j = decide (i = j) := by
    by_cases h : i = j
    · subst h; simp [hi]
    · rcases Nat.lt_or_gt_of_ne h with h' | h'
      · have : j - i ≠ 0 := by omega
        simp [hj, h, this]
      · simp [h, h']
  simp only [setBitOf, BitVec.getLsbD_or, BitVec.getLsbD_and, BitVec.getLsbD_not, hb, hm, hj]
  by_cases h : i = j <;> simp [h]

/-- Replacing two-bit pixel `k` replaces pixel `k` alone. -/
theorem field2Of_setField2Of (v : Byte) {k : Nat} (d : BitVec 2) {k' : Nat} (hk : k < 4) (hk' : k' < 4) :
    field2Of (setField2Of v k d) k' = if k = k' then d else field2Of v k' := by
  have h : ∀ v : BitVec 8, ∀ d : BitVec 2, ∀ k k' : Fin 4,
      field2Of (setField2Of v k d) k' = if k = k' then d else field2Of v k' := by
    intro v d k k'
    fin_cases k <;> fin_cases k' <;>
      (apply BitVec.eq_of_getLsbD_eq; intro i hi; interval_cases i <;>
        simp [field2Of, setField2Of])
  have := h v d ⟨k, hk⟩ ⟨k', hk'⟩
  simpa using this

/-- A byte is its four two-bit pixels. -/
theorem eq_of_field2Of_eq {v w : Byte} (h : ∀ k, k < 4 → field2Of v k = field2Of w k) : v = w := by
  apply BitVec.eq_of_getLsbD_eq
  intro i hi
  have h0 := congrArg (fun x => x.getLsbD (i % 2)) (h (3 - i / 2) (by omega))
  simp only [field2Of, BitVec.getLsbD_extractLsb'] at h0
  have e : 6 - 2 * (3 - i / 2) + i % 2 = i := by omega
  have hd : decide (i % 2 < 2) = true := decide_eq_true (Nat.mod_lt _ (by decide))
  simpa only [e, hd, Bool.true_and] using h0

end Sys2Proof.Machine
end

