-- ==== Sys2Proof/Laws/Memory.lean ====
section
/-! SUPPORT. The laws of loops, memory bytes and address ranges: one induction principle for every loop of the
pseudocode, read after write, the canonical form kept, and offsets of a buffer as bus addresses. -/

namespace Sys2Proof.Machine

/-! ## Loops -/

@[simp] theorem forRange_zero {α : Type} (body : Nat → α → α) (a : α) : forRange 0 body a = a := rfl

@[simp] theorem forRange_succ {α : Type} (n : Nat) (body : Nat → α → α) (a : α) :
    forRange (n + 1) body a = body n (forRange n body a) := by
  simp [forRange, List.range_succ]

/-- Every loop is reasoned about through this: `P i` holds before iteration `i`. -/
theorem forRange_induct {α : Type} {n : Nat} {body : Nat → α → α} {a : α} (P : Nat → α → Prop)
    (start : P 0 a) (next : ∀ i, i < n → ∀ x, P i x → P (i + 1) (body i x)) :
    P n (forRange n body a) := by
  induction n with
  | zero => exact start
  | succ n ih =>
    rw [forRange_succ]
    exact next n (Nat.lt_succ_self n) _ (ih fun i hi => next i (Nat.lt_succ_of_lt hi))

/-- What one iteration keeps, the loop keeps. -/
theorem forRange_keeps {α : Type} {n : Nat} {body : Nat → α → α} {a : α} (P : α → Prop)
    (start : P a) (next : ∀ i, i < n → ∀ x, P x → P (body i x)) : P (forRange n body a) :=
  forRange_induct (fun _ => P) start next

/-- Two loops whose bodies agree on the iterations that run are the same. -/
theorem forRange_congr {α : Type} {n : Nat} {f g : Nat → α → α} {a : α}
    (h : ∀ i, i < n → ∀ x, f i x = g i x) : forRange n f a = forRange n g a := by
  induction n with
  | zero => rfl
  | succ n ih =>
    rw [forRange_succ, forRange_succ, ih fun i hi => h i (Nat.lt_succ_of_lt hi)]
    exact h n (Nat.lt_succ_self n) _

/-! ## Reading and writing one byte -/

theorem Memory.read_insert (m : Memory) (a : Nat) (b : Byte) (a' : Nat) :
    Memory.read (m.insert a b) a' = if a = a' then b else m.read a' := by
  induction m with
  | nil => simp [Memory.insert, Memory.read]
  | cons c rest ih =>
    obtain ⟨k, v⟩ := c
    simp only [Memory.insert]
    split
    · simp [Memory.read]
    · split
      · subst_vars; simp only [Memory.read]; split <;> rfl
      · simp only [Memory.read, ih]
        by_cases h : k = a'
        · subst h; simp_all
        · simp [h]

theorem Memory.read_eq_unlisted (m : Memory) (a : Nat) (h : ∀ c ∈ m, c.1 ≠ a) :
    m.read a = unlistedByte := by
  induction m with
  | nil => rfl
  | cons c rest ih =>
    obtain ⟨k, v⟩ := c
    have hk : k ≠ a := h (k, v) (by simp)
    simp only [Memory.read, if_neg hk]
    exact ih fun c hc => h c (by simp [hc])

theorem Memory.read_erase (m : Memory) (hm : m.Pairwise (fun c d => c.1 < d.1)) (a a' : Nat) :
    Memory.read (m.erase a) a' = if a = a' then unlistedByte else m.read a' := by
  induction m with
  | nil => simp [Memory.erase, Memory.read]
  | cons c rest ih =>
    obtain ⟨k, v⟩ := c
    obtain ⟨hk, hr⟩ := List.pairwise_cons.mp hm
    simp only [Memory.erase]
    by_cases h : k = a
    · subst h
      simp only [if_true, Memory.read]
      split
      · next e =>
        subst e
        exact Memory.read_eq_unlisted rest k fun c hc => Nat.ne_of_gt (hk c hc)
      · rfl
    · simp only [if_neg h, Memory.read, ih hr]
      by_cases h' : k = a'
      · subst h'; simp [Ne.symm h]
      · simp [h']

/-- Read after write, in one line. -/
theorem Memory.read_write (m : Memory) (hm : m.wf) (a : Nat) (b : Byte) (a' : Nat) :
    Memory.read (m.write a b) a' = if a = a' then b else m.read a' := by
  unfold Memory.write
  split
  · next h => rw [Memory.read_erase m hm.1, h]
  · exact Memory.read_insert m a b a'

/-! ## The canonical form -/

theorem Memory.mem_insert {m : Memory} {a : Nat} {b : Byte} {c : Host.Cell} (h : c ∈ m.insert a b) :
    c = (a, b) ∨ c ∈ m := by
  induction m with
  | nil => simpa [Memory.insert] using h
  | cons d rest ih =>
    obtain ⟨k, v⟩ := d
    simp only [Memory.insert] at h
    split at h
    · simpa using h
    · split at h
      · rcases List.mem_cons.mp h with h | h
        · exact .inl h
        · exact .inr (by simp [h])
      · rcases List.mem_cons.mp h with h | h
        · exact .inr (by simp [h])
        · rcases ih h with h | h
          · exact .inl h
          · exact .inr (by simp [h])

theorem Memory.mem_erase {m : Memory} {a : Nat} {c : Host.Cell} (h : c ∈ m.erase a) : c ∈ m := by
  induction m with
  | nil => simp [Memory.erase] at h
  | cons d rest ih =>
    obtain ⟨k, v⟩ := d
    simp only [Memory.erase] at h
    split at h
    · simp [h]
    · rcases List.mem_cons.mp h with h | h
      · simp [h]
      · simp [ih h]

theorem Memory.pairwise_insert {m : Memory} (hm : m.Pairwise (fun c d => c.1 < d.1)) (a : Nat) (b : Byte) :
    (m.insert a b).Pairwise (fun c d => c.1 < d.1) := by
  induction m with
  | nil => simp [Memory.insert]
  | cons d rest ih =>
    obtain ⟨k, v⟩ := d
    obtain ⟨hk, hr⟩ := List.pairwise_cons.mp hm
    simp only [Memory.insert]
    split
    · next h =>
      refine List.pairwise_cons.mpr ⟨fun c hc => ?_, hm⟩
      rcases List.mem_cons.mp hc with e | e
      · subst e; exact h
      · exact Nat.lt_trans h (hk c e)
    · split
      · next h => subst h; exact List.pairwise_cons.mpr ⟨hk, hr⟩
      · next h h' =>
        refine List.pairwise_cons.mpr ⟨fun c hc => ?_, ih hr⟩
        rcases Memory.mem_insert hc with e | e
        · subst e; simp; omega
        · exact hk c e

theorem Memory.pairwise_erase {m : Memory} (hm : m.Pairwise (fun c d => c.1 < d.1)) (a : Nat) :
    (m.erase a).Pairwise (fun c d => c.1 < d.1) := by
  induction m with
  | nil => simp [Memory.erase]
  | cons d rest ih =>
    obtain ⟨k, v⟩ := d
    obtain ⟨hk, hr⟩ := List.pairwise_cons.mp hm
    simp only [Memory.erase]
    split
    · exact hr
    · exact List.pairwise_cons.mpr ⟨fun c hc => hk c (Memory.mem_erase hc), ih hr⟩

/-- A write inside the address space keeps the canonical form. -/
theorem Memory.wf_write {m : Memory} (hm : m.wf) {a : Nat} (ha : a < 2 ^ 32) (b : Byte) :
    (m.write a b).wf := by
  unfold Memory.write
  split
  · exact ⟨Memory.pairwise_erase hm.1 a, fun c hc => hm.2 c (Memory.mem_erase hc)⟩
  · next h =>
    refine ⟨Memory.pairwise_insert hm.1 a b, fun c hc => ?_⟩
    rcases Memory.mem_insert hc with e | e
    · subst e; exact ⟨ha, h⟩
    · exact hm.2 c e

/-! ## Bytes of a buffer -/

theorem busAddr_lt (base : Word) (off : Nat) : busAddr base off < 2 ^ 32 :=
  Nat.mod_lt _ (by decide)

/-- Different offsets of a buffer no longer than the address space are different bytes. -/
theorem busAddr_inj {base : Word} {i j : Nat} (hi : i < 2 ^ 32) (hj : j < 2 ^ 32)
    (h : busAddr base i = busAddr base j) : i = j := by
  unfold busAddr at h; omega

theorem Memory.wf_writeAt {m : Memory} (hm : m.wf) (base : Word) (off : Nat) (b : Byte) :
    (m.writeAt base off b).wf := Memory.wf_write hm (busAddr_lt base off) b

theorem Memory.read_writeAt {m : Memory} (hm : m.wf) (base : Word) (off : Nat) (b : Byte) (a : Nat) :
    Memory.read (m.writeAt base off b) a = if busAddr base off = a then b else m.read a :=
  Memory.read_write m hm _ b a

theorem Memory.wf_setBit {m : Memory} (hm : m.wf) (base : Word) (off i : Nat) (b : Bool) :
    (m.setBit base off i b).wf := Memory.wf_writeAt hm _ _ _

theorem Memory.wf_setField2 {m : Memory} (hm : m.wf) (base : Word) (off k : Nat) (d : BitVec 2) :
    (m.setField2 base off k d).wf := Memory.wf_writeAt hm _ _ _

/-! ## Ranges -/

/-- An address is in a range exactly when it is the bus address of one of its offsets. -/
theorem inRange_iff {base : Word} {len a : Nat} (ha : a < 2 ^ 32) :
    inRange base len a = true ↔ ∃ i, i < len ∧ busAddr base i = a := by
  have hb := base.isLt
  simp only [inRange, decide_eq_true_eq, busAddr]
  constructor
  · intro h
    exact ⟨_, h, by omega⟩
  · rintro ⟨i, hi, rfl⟩
    have h1 : ((base.toNat + i) % 2 ^ 32 + (2 ^ 32 - base.toNat)) % 2 ^ 32 = i % 2 ^ 32 := by omega
    rw [h1]
    exact Nat.lt_of_le_of_lt (Nat.mod_le _ _) hi

/-- A longer range from the same base holds what the shorter one does. -/
theorem inRange_mono {base : Word} {len len' a : Nat} (hle : len ≤ len') (h : inRange base len a = true) :
    inRange base len' a = true := by
  simp only [inRange, decide_eq_true_eq] at h ⊢
  omega

theorem inRange_busAddr {base : Word} {len i : Nat} (hi : i < len) : inRange base len (busAddr base i) = true :=
  (inRange_iff (busAddr_lt base i)).mpr ⟨i, hi, rfl⟩

/-- Two ranges share a byte exactly when `rangesMeet` says so. -/
theorem rangesMeet_iff {b₁ b₂ : Word} {l₁ l₂ : Nat} :
    rangesMeet b₁ l₁ b₂ l₂ = true ↔
      ∃ a, a < 2 ^ 32 ∧ inRange b₁ l₁ a = true ∧ inRange b₂ l₂ a = true := by
  have h1 := b₁.isLt
  have h2 := b₂.isLt
  simp only [rangesMeet, inRange, Bool.or_eq_true, Bool.and_eq_true, decide_eq_true_eq]
  constructor
  · rintro (⟨hl, h⟩ | ⟨hl, h⟩)
    · exact ⟨b₂.toNat, h2, h, by omega⟩
    · exact ⟨b₁.toNat, h1, by omega, h⟩
  · rintro ⟨a, ha, h, h'⟩
    by_cases hle : (a + (2 ^ 32 - b₂.toNat)) % 2 ^ 32 ≤ (a + (2 ^ 32 - b₁.toNat)) % 2 ^ 32
    · exact .inl ⟨by omega, by omega⟩
    · exact .inr ⟨by omega, by omega⟩

end Sys2Proof.Machine
end

