-- ==== Sys2Proof/Laws/State.lean ====
section
/-! SUPPORT. One lemma per field per update of the state, so that no later proof unfolds a record update, and the
same for the updates of STATUS. -/

namespace Sys2Proof.Machine

/-! ## The start of a command (R18, R26) -/

@[simp] theorem Status.start_done (f : Status) : (f.start).done = false := rfl
@[simp] theorem Status.start_upd (f : Status) : (f.start).upd = false := rfl
@[simp] theorem Status.start_updFast (f : Status) : (f.start).updFast = false := rfl
@[simp] theorem Status.start_clr (f : Status) : (f.start).clr = false := rfl
@[simp] theorem Status.start_fastpath (f : Status) : (f.start).fastpath = false := rfl
@[simp] theorem Status.start_ovr (f : Status) : (f.start).ovr = f.ovr := rfl
@[simp] theorem Status.start_err (f : Status) : (f.start).err = .ok := rfl

/-! ## Completion (R26) -/

@[simp] theorem Status.complete_done (f : Status) : (f.complete).done = true := rfl
@[simp] theorem Status.complete_upd (f : Status) : (f.complete).upd = f.upd := rfl
@[simp] theorem Status.complete_updFast (f : Status) : (f.complete).updFast = f.updFast := rfl
@[simp] theorem Status.complete_clr (f : Status) : (f.complete).clr = f.clr := rfl
@[simp] theorem Status.complete_fastpath (f : Status) : (f.complete).fastpath = f.fastpath := rfl
@[simp] theorem Status.complete_ovr (f : Status) : (f.complete).ovr = f.ovr := rfl
@[simp] theorem Status.complete_err (f : Status) : (f.complete).err = f.err := rfl

/-! ## An error code (R106) -/

@[simp] theorem Status.fail_done (f : Status) (e : ErrorCode) : (f.fail e).done = f.done := rfl
@[simp] theorem Status.fail_upd (f : Status) (e : ErrorCode) : (f.fail e).upd = f.upd := rfl
@[simp] theorem Status.fail_updFast (f : Status) (e : ErrorCode) : (f.fail e).updFast = f.updFast := rfl
@[simp] theorem Status.fail_clr (f : Status) (e : ErrorCode) : (f.fail e).clr = f.clr := rfl
@[simp] theorem Status.fail_fastpath (f : Status) (e : ErrorCode) : (f.fail e).fastpath = f.fastpath := rfl
@[simp] theorem Status.fail_ovr (f : Status) (e : ErrorCode) : (f.fail e).ovr = f.ovr := rfl
@[simp] theorem Status.fail_err (f : Status) (e : ErrorCode) : (f.fail e).err = e := rfl

/-! ## The mirror of an update (R112) -/

@[simp] theorem Status.updated_done (f : Status) (k : UpdateKind) : (f.updated k).done = f.done := rfl
@[simp] theorem Status.updated_upd (f : Status) (k : UpdateKind) : (f.updated k).upd = true := rfl
@[simp] theorem Status.updated_updFast (f : Status) (k : UpdateKind) : (f.updated k).updFast = decide (k = .fast) := rfl
@[simp] theorem Status.updated_clr (f : Status) (k : UpdateKind) : (f.updated k).clr = f.clr := rfl
@[simp] theorem Status.updated_fastpath (f : Status) (k : UpdateKind) : (f.updated k).fastpath = f.fastpath := rfl
@[simp] theorem Status.updated_ovr (f : Status) (k : UpdateKind) : (f.updated k).ovr = f.ovr := rfl
@[simp] theorem Status.updated_err (f : Status) (k : UpdateKind) : (f.updated k).err = f.err := rfl

/-! ## A dropped write (R27) -/

@[simp] theorem Status.overrun_done (f : Status) : (f.overrun).done = f.done := rfl
@[simp] theorem Status.overrun_upd (f : Status) : (f.overrun).upd = f.upd := rfl
@[simp] theorem Status.overrun_updFast (f : Status) : (f.overrun).updFast = f.updFast := rfl
@[simp] theorem Status.overrun_clr (f : Status) : (f.overrun).clr = f.clr := rfl
@[simp] theorem Status.overrun_fastpath (f : Status) : (f.overrun).fastpath = f.fastpath := rfl
@[simp] theorem Status.overrun_ovr (f : Status) : (f.overrun).ovr = true := rfl
@[simp] theorem Status.overrun_err (f : Status) : (f.overrun).err = f.err := rfl

/-! ## Write-one-to-clear (R18) -/

@[simp] theorem Status.writeOneToClear_done (f : Status) (w : Word) : (f.writeOneToClear w).done = (f.done && !w.getLsbD 1) := rfl
@[simp] theorem Status.writeOneToClear_upd (f : Status) (w : Word) : (f.writeOneToClear w).upd = f.upd := rfl
@[simp] theorem Status.writeOneToClear_updFast (f : Status) (w : Word) : (f.writeOneToClear w).updFast = f.updFast := rfl
@[simp] theorem Status.writeOneToClear_clr (f : Status) (w : Word) : (f.writeOneToClear w).clr = f.clr := rfl
@[simp] theorem Status.writeOneToClear_fastpath (f : Status) (w : Word) : (f.writeOneToClear w).fastpath = f.fastpath := rfl
@[simp] theorem Status.writeOneToClear_ovr (f : Status) (w : Word) : (f.writeOneToClear w).ovr = (f.ovr && !w.getLsbD 6) := rfl
@[simp] theorem Status.writeOneToClear_err (f : Status) (w : Word) : (f.writeOneToClear w).err = f.err := rfl

/-! ## `complete` (R26) -/

@[simp] theorem State.complete_cmd (s : State) : (s.complete).cmd = s.cmd := rfl
@[simp] theorem State.complete_status (s : State) : (s.complete).status = s.status.complete := rfl
@[simp] theorem State.complete_srcAddr (s : State) : (s.complete).srcAddr = s.srcAddr := rfl
@[simp] theorem State.complete_srcSize (s : State) : (s.complete).srcSize = s.srcSize := rfl
@[simp] theorem State.complete_fbAddr (s : State) : (s.complete).fbAddr = s.fbAddr := rfl
@[simp] theorem State.complete_dispCfg (s : State) : (s.complete).dispCfg = s.dispCfg := rfl
@[simp] theorem State.complete_dispDim (s : State) : (s.complete).dispDim = s.dispDim := rfl
@[simp] theorem State.complete_in0 (s : State) : (s.complete).in0 = s.in0 := rfl
@[simp] theorem State.complete_in1 (s : State) : (s.complete).in1 = s.in1 := rfl
@[simp] theorem State.complete_out0 (s : State) : (s.complete).out0 = s.out0 := rfl
@[simp] theorem State.complete_out1 (s : State) : (s.complete).out1 = s.out1 := rfl
@[simp] theorem State.complete_fsm (s : State) : (s.complete).fsm = .idle := rfl
@[simp] theorem State.complete_mem (s : State) : (s.complete).mem = s.mem := rfl
@[simp] theorem State.complete_config (s : State) : (s.complete).config = s.config := rfl
@[simp] theorem State.complete_events (s : State) : (s.complete).events = s.events := rfl
@[simp] theorem State.complete_turns (s : State) : (s.complete).turns = s.turns := rfl
@[simp] theorem State.complete_reads (s : State) : (s.complete).reads = s.reads := rfl
@[simp] theorem State.complete_updates (s : State) : (s.complete).updates = s.updates := rfl
@[simp] theorem State.complete_portOwner (s : State) : (s.complete).portOwner = s.portOwner := rfl
@[simp] theorem State.complete_draws (s : State) : (s.complete).draws = s.draws := rfl

/-! ## `raiseError` (R106) -/

@[simp] theorem State.raiseError_cmd (s : State) (e : ErrorCode) : (s.raiseError e).cmd = s.cmd := rfl
@[simp] theorem State.raiseError_status (s : State) (e : ErrorCode) : (s.raiseError e).status = (s.status.fail e).complete := rfl
@[simp] theorem State.raiseError_srcAddr (s : State) (e : ErrorCode) : (s.raiseError e).srcAddr = s.srcAddr := rfl
@[simp] theorem State.raiseError_srcSize (s : State) (e : ErrorCode) : (s.raiseError e).srcSize = s.srcSize := rfl
@[simp] theorem State.raiseError_fbAddr (s : State) (e : ErrorCode) : (s.raiseError e).fbAddr = s.fbAddr := rfl
@[simp] theorem State.raiseError_dispCfg (s : State) (e : ErrorCode) : (s.raiseError e).dispCfg = s.dispCfg := rfl
@[simp] theorem State.raiseError_dispDim (s : State) (e : ErrorCode) : (s.raiseError e).dispDim = s.dispDim := rfl
@[simp] theorem State.raiseError_in0 (s : State) (e : ErrorCode) : (s.raiseError e).in0 = s.in0 := rfl
@[simp] theorem State.raiseError_in1 (s : State) (e : ErrorCode) : (s.raiseError e).in1 = s.in1 := rfl
@[simp] theorem State.raiseError_out0 (s : State) (e : ErrorCode) : (s.raiseError e).out0 = s.out0 := rfl
@[simp] theorem State.raiseError_out1 (s : State) (e : ErrorCode) : (s.raiseError e).out1 = s.out1 := rfl
@[simp] theorem State.raiseError_fsm (s : State) (e : ErrorCode) : (s.raiseError e).fsm = .idle := rfl
@[simp] theorem State.raiseError_mem (s : State) (e : ErrorCode) : (s.raiseError e).mem = s.mem := rfl
@[simp] theorem State.raiseError_config (s : State) (e : ErrorCode) : (s.raiseError e).config = s.config := rfl
@[simp] theorem State.raiseError_events (s : State) (e : ErrorCode) : (s.raiseError e).events = s.events := rfl
@[simp] theorem State.raiseError_turns (s : State) (e : ErrorCode) : (s.raiseError e).turns = s.turns := rfl
@[simp] theorem State.raiseError_reads (s : State) (e : ErrorCode) : (s.raiseError e).reads = s.reads := rfl
@[simp] theorem State.raiseError_updates (s : State) (e : ErrorCode) : (s.raiseError e).updates = s.updates := rfl
@[simp] theorem State.raiseError_portOwner (s : State) (e : ErrorCode) : (s.raiseError e).portOwner = s.portOwner := rfl
@[simp] theorem State.raiseError_draws (s : State) (e : ErrorCode) : (s.raiseError e).draws = s.draws := rfl

/-! ## `emitUpdate` (R112) -/

@[simp] theorem State.emitUpdate_cmd (s : State) (k : UpdateKind) : (s.emitUpdate k).cmd = s.cmd := rfl
@[simp] theorem State.emitUpdate_status (s : State) (k : UpdateKind) : (s.emitUpdate k).status = s.status.updated k := rfl
@[simp] theorem State.emitUpdate_srcAddr (s : State) (k : UpdateKind) : (s.emitUpdate k).srcAddr = s.srcAddr := rfl
@[simp] theorem State.emitUpdate_srcSize (s : State) (k : UpdateKind) : (s.emitUpdate k).srcSize = s.srcSize := rfl
@[simp] theorem State.emitUpdate_fbAddr (s : State) (k : UpdateKind) : (s.emitUpdate k).fbAddr = s.fbAddr := rfl
@[simp] theorem State.emitUpdate_dispCfg (s : State) (k : UpdateKind) : (s.emitUpdate k).dispCfg = s.dispCfg := rfl
@[simp] theorem State.emitUpdate_dispDim (s : State) (k : UpdateKind) : (s.emitUpdate k).dispDim = s.dispDim := rfl
@[simp] theorem State.emitUpdate_in0 (s : State) (k : UpdateKind) : (s.emitUpdate k).in0 = s.in0 := rfl
@[simp] theorem State.emitUpdate_in1 (s : State) (k : UpdateKind) : (s.emitUpdate k).in1 = s.in1 := rfl
@[simp] theorem State.emitUpdate_out0 (s : State) (k : UpdateKind) : (s.emitUpdate k).out0 = s.out0 := rfl
@[simp] theorem State.emitUpdate_out1 (s : State) (k : UpdateKind) : (s.emitUpdate k).out1 = s.out1 := rfl
@[simp] theorem State.emitUpdate_fsm (s : State) (k : UpdateKind) : (s.emitUpdate k).fsm = s.fsm := rfl
@[simp] theorem State.emitUpdate_mem (s : State) (k : UpdateKind) : (s.emitUpdate k).mem = s.mem := rfl
@[simp] theorem State.emitUpdate_config (s : State) (k : UpdateKind) : (s.emitUpdate k).config = s.config := rfl
@[simp] theorem State.emitUpdate_events (s : State) (k : UpdateKind) : (s.emitUpdate k).events = s.events := rfl
@[simp] theorem State.emitUpdate_turns (s : State) (k : UpdateKind) : (s.emitUpdate k).turns = s.turns := rfl
@[simp] theorem State.emitUpdate_reads (s : State) (k : UpdateKind) : (s.emitUpdate k).reads = s.reads := rfl
@[simp] theorem State.emitUpdate_updates (s : State) (k : UpdateKind) : (s.emitUpdate k).updates = s.updates ++ [k] := rfl
@[simp] theorem State.emitUpdate_portOwner (s : State) (k : UpdateKind) : (s.emitUpdate k).portOwner = s.portOwner := rfl
@[simp] theorem State.emitUpdate_draws (s : State) (k : UpdateKind) : (s.emitUpdate k).draws = s.draws := rfl

/-! ## `startCommand` (R26) -/

@[simp] theorem State.startCommand_cmd (s : State) (w : Word) : (s.startCommand w).cmd = w := rfl
@[simp] theorem State.startCommand_status (s : State) (w : Word) : (s.startCommand w).status = s.status.start := rfl
@[simp] theorem State.startCommand_srcAddr (s : State) (w : Word) : (s.startCommand w).srcAddr = s.srcAddr := rfl
@[simp] theorem State.startCommand_srcSize (s : State) (w : Word) : (s.startCommand w).srcSize = s.srcSize := rfl
@[simp] theorem State.startCommand_fbAddr (s : State) (w : Word) : (s.startCommand w).fbAddr = s.fbAddr := rfl
@[simp] theorem State.startCommand_dispCfg (s : State) (w : Word) : (s.startCommand w).dispCfg = s.dispCfg := rfl
@[simp] theorem State.startCommand_dispDim (s : State) (w : Word) : (s.startCommand w).dispDim = s.dispDim := rfl
@[simp] theorem State.startCommand_in0 (s : State) (w : Word) : (s.startCommand w).in0 = s.in0 := rfl
@[simp] theorem State.startCommand_in1 (s : State) (w : Word) : (s.startCommand w).in1 = s.in1 := rfl
@[simp] theorem State.startCommand_out0 (s : State) (w : Word) : (s.startCommand w).out0 = s.out0 := rfl
@[simp] theorem State.startCommand_out1 (s : State) (w : Word) : (s.startCommand w).out1 = s.out1 := rfl
@[simp] theorem State.startCommand_fsm (s : State) (w : Word) : (s.startCommand w).fsm = .busy := rfl
@[simp] theorem State.startCommand_mem (s : State) (w : Word) : (s.startCommand w).mem = s.mem := rfl
@[simp] theorem State.startCommand_config (s : State) (w : Word) : (s.startCommand w).config = s.config := rfl
@[simp] theorem State.startCommand_events (s : State) (w : Word) : (s.startCommand w).events = s.events := rfl
@[simp] theorem State.startCommand_turns (s : State) (w : Word) : (s.startCommand w).turns = s.turns := rfl
@[simp] theorem State.startCommand_reads (s : State) (w : Word) : (s.startCommand w).reads = s.reads := rfl
@[simp] theorem State.startCommand_updates (s : State) (w : Word) : (s.startCommand w).updates = s.updates := rfl
@[simp] theorem State.startCommand_portOwner (s : State) (w : Word) : (s.startCommand w).portOwner = s.portOwner := rfl
@[simp] theorem State.startCommand_draws (s : State) (w : Word) : (s.startCommand w).draws = s.draws := rfl

/-! ## `finishOut0` (R86) -/

@[simp] theorem State.finishOut0_cmd (s : State) (b : Byte) : (s.finishOut0 b).cmd = s.cmd := rfl
@[simp] theorem State.finishOut0_status (s : State) (b : Byte) : (s.finishOut0 b).status = s.status.complete := rfl
@[simp] theorem State.finishOut0_srcAddr (s : State) (b : Byte) : (s.finishOut0 b).srcAddr = s.srcAddr := rfl
@[simp] theorem State.finishOut0_srcSize (s : State) (b : Byte) : (s.finishOut0 b).srcSize = s.srcSize := rfl
@[simp] theorem State.finishOut0_fbAddr (s : State) (b : Byte) : (s.finishOut0 b).fbAddr = s.fbAddr := rfl
@[simp] theorem State.finishOut0_dispCfg (s : State) (b : Byte) : (s.finishOut0 b).dispCfg = s.dispCfg := rfl
@[simp] theorem State.finishOut0_dispDim (s : State) (b : Byte) : (s.finishOut0 b).dispDim = s.dispDim := rfl
@[simp] theorem State.finishOut0_in0 (s : State) (b : Byte) : (s.finishOut0 b).in0 = s.in0 := rfl
@[simp] theorem State.finishOut0_in1 (s : State) (b : Byte) : (s.finishOut0 b).in1 = s.in1 := rfl
@[simp] theorem State.finishOut0_out0 (s : State) (b : Byte) : (s.finishOut0 b).out0 = b.setWidth 32 := rfl
@[simp] theorem State.finishOut0_out1 (s : State) (b : Byte) : (s.finishOut0 b).out1 = s.out1 := rfl
@[simp] theorem State.finishOut0_fsm (s : State) (b : Byte) : (s.finishOut0 b).fsm = .idle := rfl
@[simp] theorem State.finishOut0_mem (s : State) (b : Byte) : (s.finishOut0 b).mem = s.mem := rfl
@[simp] theorem State.finishOut0_config (s : State) (b : Byte) : (s.finishOut0 b).config = s.config := rfl
@[simp] theorem State.finishOut0_events (s : State) (b : Byte) : (s.finishOut0 b).events = s.events := rfl
@[simp] theorem State.finishOut0_turns (s : State) (b : Byte) : (s.finishOut0 b).turns = s.turns := rfl
@[simp] theorem State.finishOut0_reads (s : State) (b : Byte) : (s.finishOut0 b).reads = s.reads := rfl
@[simp] theorem State.finishOut0_updates (s : State) (b : Byte) : (s.finishOut0 b).updates = s.updates := rfl
@[simp] theorem State.finishOut0_portOwner (s : State) (b : Byte) : (s.finishOut0 b).portOwner = s.portOwner := rfl
@[simp] theorem State.finishOut0_draws (s : State) (b : Byte) : (s.finishOut0 b).draws = s.draws := rfl

/-! ## `finishBlit` (R83) -/

@[simp] theorem State.finishBlit_cmd (s : State) (fast : Bool) : (s.finishBlit fast).cmd = s.cmd := rfl
@[simp] theorem State.finishBlit_status (s : State) (fast : Bool) : (s.finishBlit fast).status = ((s.status.updated (kindOf fast)).fail .ok).complete := rfl
@[simp] theorem State.finishBlit_srcAddr (s : State) (fast : Bool) : (s.finishBlit fast).srcAddr = s.srcAddr := rfl
@[simp] theorem State.finishBlit_srcSize (s : State) (fast : Bool) : (s.finishBlit fast).srcSize = s.srcSize := rfl
@[simp] theorem State.finishBlit_fbAddr (s : State) (fast : Bool) : (s.finishBlit fast).fbAddr = s.fbAddr := rfl
@[simp] theorem State.finishBlit_dispCfg (s : State) (fast : Bool) : (s.finishBlit fast).dispCfg = s.dispCfg := rfl
@[simp] theorem State.finishBlit_dispDim (s : State) (fast : Bool) : (s.finishBlit fast).dispDim = s.dispDim := rfl
@[simp] theorem State.finishBlit_in0 (s : State) (fast : Bool) : (s.finishBlit fast).in0 = s.in0 := rfl
@[simp] theorem State.finishBlit_in1 (s : State) (fast : Bool) : (s.finishBlit fast).in1 = s.in1 := rfl
@[simp] theorem State.finishBlit_out0 (s : State) (fast : Bool) : (s.finishBlit fast).out0 = s.out0 := rfl
@[simp] theorem State.finishBlit_out1 (s : State) (fast : Bool) : (s.finishBlit fast).out1 = s.out1 := rfl
@[simp] theorem State.finishBlit_fsm (s : State) (fast : Bool) : (s.finishBlit fast).fsm = .idle := rfl
@[simp] theorem State.finishBlit_mem (s : State) (fast : Bool) : (s.finishBlit fast).mem = s.mem := rfl
@[simp] theorem State.finishBlit_config (s : State) (fast : Bool) : (s.finishBlit fast).config = s.config := rfl
@[simp] theorem State.finishBlit_events (s : State) (fast : Bool) : (s.finishBlit fast).events = s.events := rfl
@[simp] theorem State.finishBlit_turns (s : State) (fast : Bool) : (s.finishBlit fast).turns = s.turns := rfl
@[simp] theorem State.finishBlit_reads (s : State) (fast : Bool) : (s.finishBlit fast).reads = s.reads := rfl
@[simp] theorem State.finishBlit_updates (s : State) (fast : Bool) : (s.finishBlit fast).updates = s.updates ++ [kindOf fast] := rfl
@[simp] theorem State.finishBlit_portOwner (s : State) (fast : Bool) : (s.finishBlit fast).portOwner = s.portOwner := rfl
@[simp] theorem State.finishBlit_draws (s : State) (fast : Bool) : (s.finishBlit fast).draws = s.draws := rfl

/-! ## `record` (R61) -/

@[simp] theorem State.record_cmd (s : State) (a v : Word) : (s.record a v).cmd = s.cmd := rfl
@[simp] theorem State.record_status (s : State) (a v : Word) : (s.record a v).status = s.status := rfl
@[simp] theorem State.record_srcAddr (s : State) (a v : Word) : (s.record a v).srcAddr = s.srcAddr := rfl
@[simp] theorem State.record_srcSize (s : State) (a v : Word) : (s.record a v).srcSize = s.srcSize := rfl
@[simp] theorem State.record_fbAddr (s : State) (a v : Word) : (s.record a v).fbAddr = s.fbAddr := rfl
@[simp] theorem State.record_dispCfg (s : State) (a v : Word) : (s.record a v).dispCfg = s.dispCfg := rfl
@[simp] theorem State.record_dispDim (s : State) (a v : Word) : (s.record a v).dispDim = s.dispDim := rfl
@[simp] theorem State.record_in0 (s : State) (a v : Word) : (s.record a v).in0 = s.in0 := rfl
@[simp] theorem State.record_in1 (s : State) (a v : Word) : (s.record a v).in1 = s.in1 := rfl
@[simp] theorem State.record_out0 (s : State) (a v : Word) : (s.record a v).out0 = s.out0 := rfl
@[simp] theorem State.record_out1 (s : State) (a v : Word) : (s.record a v).out1 = s.out1 := rfl
@[simp] theorem State.record_fsm (s : State) (a v : Word) : (s.record a v).fsm = s.fsm := rfl
@[simp] theorem State.record_mem (s : State) (a v : Word) : (s.record a v).mem = s.mem := rfl
@[simp] theorem State.record_config (s : State) (a v : Word) : (s.record a v).config = s.config := rfl
@[simp] theorem State.record_events (s : State) (a v : Word) : (s.record a v).events = s.events := rfl
@[simp] theorem State.record_turns (s : State) (a v : Word) : (s.record a v).turns = s.turns := rfl
@[simp] theorem State.record_reads (s : State) (a v : Word) : (s.record a v).reads = s.reads ++ [{ addr := a, value := v }] := rfl
@[simp] theorem State.record_updates (s : State) (a v : Word) : (s.record a v).updates = s.updates := rfl
@[simp] theorem State.record_portOwner (s : State) (a v : Word) : (s.record a v).portOwner = s.portOwner := rfl
@[simp] theorem State.record_draws (s : State) (a v : Word) : (s.record a v).draws = s.draws := rfl

/-! ## `resetRegisters` (R119) -/

@[simp] theorem State.resetRegisters_cmd (s : State) : (s.resetRegisters).cmd = State.reset.cmd := rfl
@[simp] theorem State.resetRegisters_status (s : State) : (s.resetRegisters).status = State.reset.status := rfl
@[simp] theorem State.resetRegisters_srcAddr (s : State) : (s.resetRegisters).srcAddr = State.reset.srcAddr := rfl
@[simp] theorem State.resetRegisters_srcSize (s : State) : (s.resetRegisters).srcSize = State.reset.srcSize := rfl
@[simp] theorem State.resetRegisters_fbAddr (s : State) : (s.resetRegisters).fbAddr = State.reset.fbAddr := rfl
@[simp] theorem State.resetRegisters_dispCfg (s : State) : (s.resetRegisters).dispCfg = State.reset.dispCfg := rfl
@[simp] theorem State.resetRegisters_dispDim (s : State) : (s.resetRegisters).dispDim = State.reset.dispDim := rfl
@[simp] theorem State.resetRegisters_in0 (s : State) : (s.resetRegisters).in0 = State.reset.in0 := rfl
@[simp] theorem State.resetRegisters_in1 (s : State) : (s.resetRegisters).in1 = State.reset.in1 := rfl
@[simp] theorem State.resetRegisters_out0 (s : State) : (s.resetRegisters).out0 = State.reset.out0 := rfl
@[simp] theorem State.resetRegisters_out1 (s : State) : (s.resetRegisters).out1 = State.reset.out1 := rfl
@[simp] theorem State.resetRegisters_fsm (s : State) : (s.resetRegisters).fsm = State.reset.fsm := rfl
@[simp] theorem State.resetRegisters_mem (s : State) : (s.resetRegisters).mem = s.mem := rfl
@[simp] theorem State.resetRegisters_config (s : State) : (s.resetRegisters).config = s.config := rfl
@[simp] theorem State.resetRegisters_events (s : State) : (s.resetRegisters).events = s.events := rfl
@[simp] theorem State.resetRegisters_turns (s : State) : (s.resetRegisters).turns = s.turns := rfl
@[simp] theorem State.resetRegisters_reads (s : State) : (s.resetRegisters).reads = s.reads := rfl
@[simp] theorem State.resetRegisters_updates (s : State) : (s.resetRegisters).updates = s.updates := rfl
@[simp] theorem State.resetRegisters_portOwner (s : State) : (s.resetRegisters).portOwner = State.reset.portOwner := rfl
@[simp] theorem State.resetRegisters_draws (s : State) : (s.resetRegisters).draws = s.draws := rfl

/-! ## `clearFor` changes memory and STATUS.CLR only (R79) -/

@[simp] theorem State.clearFor_cmd (s : State) (b : Blit) : (s.clearFor b).cmd = s.cmd := by
  unfold State.clearFor; split <;> rfl
@[simp] theorem State.clearFor_srcAddr (s : State) (b : Blit) : (s.clearFor b).srcAddr = s.srcAddr := by
  unfold State.clearFor; split <;> rfl
@[simp] theorem State.clearFor_srcSize (s : State) (b : Blit) : (s.clearFor b).srcSize = s.srcSize := by
  unfold State.clearFor; split <;> rfl
@[simp] theorem State.clearFor_fbAddr (s : State) (b : Blit) : (s.clearFor b).fbAddr = s.fbAddr := by
  unfold State.clearFor; split <;> rfl
@[simp] theorem State.clearFor_dispCfg (s : State) (b : Blit) : (s.clearFor b).dispCfg = s.dispCfg := by
  unfold State.clearFor; split <;> rfl
@[simp] theorem State.clearFor_dispDim (s : State) (b : Blit) : (s.clearFor b).dispDim = s.dispDim := by
  unfold State.clearFor; split <;> rfl
@[simp] theorem State.clearFor_in0 (s : State) (b : Blit) : (s.clearFor b).in0 = s.in0 := by
  unfold State.clearFor; split <;> rfl
@[simp] theorem State.clearFor_in1 (s : State) (b : Blit) : (s.clearFor b).in1 = s.in1 := by
  unfold State.clearFor; split <;> rfl
@[simp] theorem State.clearFor_out0 (s : State) (b : Blit) : (s.clearFor b).out0 = s.out0 := by
  unfold State.clearFor; split <;> rfl
@[simp] theorem State.clearFor_out1 (s : State) (b : Blit) : (s.clearFor b).out1 = s.out1 := by
  unfold State.clearFor; split <;> rfl
@[simp] theorem State.clearFor_fsm (s : State) (b : Blit) : (s.clearFor b).fsm = s.fsm := by
  unfold State.clearFor; split <;> rfl
@[simp] theorem State.clearFor_config (s : State) (b : Blit) : (s.clearFor b).config = s.config := by
  unfold State.clearFor; split <;> rfl
@[simp] theorem State.clearFor_events (s : State) (b : Blit) : (s.clearFor b).events = s.events := by
  unfold State.clearFor; split <;> rfl
@[simp] theorem State.clearFor_turns (s : State) (b : Blit) : (s.clearFor b).turns = s.turns := by
  unfold State.clearFor; split <;> rfl
@[simp] theorem State.clearFor_reads (s : State) (b : Blit) : (s.clearFor b).reads = s.reads := by
  unfold State.clearFor; split <;> rfl
@[simp] theorem State.clearFor_updates (s : State) (b : Blit) : (s.clearFor b).updates = s.updates := by
  unfold State.clearFor; split <;> rfl
@[simp] theorem State.clearFor_portOwner (s : State) (b : Blit) : (s.clearFor b).portOwner = s.portOwner := by
  unfold State.clearFor; split <;> rfl
@[simp] theorem State.clearFor_draws (s : State) (b : Blit) : (s.clearFor b).draws = s.draws := by
  unfold State.clearFor; split <;> rfl

/-! ## BLIT1's path changes memory and STATUS.FASTPATH only (R93) -/

@[simp] theorem Blit.path1_cmd (b : Blit) (s : State) : (b.path1 s).cmd = s.cmd := by
  unfold Blit.path1; split <;> [rfl; (cases b.rot <;> rfl)]
@[simp] theorem Blit.path1_srcAddr (b : Blit) (s : State) : (b.path1 s).srcAddr = s.srcAddr := by
  unfold Blit.path1; split <;> [rfl; (cases b.rot <;> rfl)]
@[simp] theorem Blit.path1_srcSize (b : Blit) (s : State) : (b.path1 s).srcSize = s.srcSize := by
  unfold Blit.path1; split <;> [rfl; (cases b.rot <;> rfl)]
@[simp] theorem Blit.path1_fbAddr (b : Blit) (s : State) : (b.path1 s).fbAddr = s.fbAddr := by
  unfold Blit.path1; split <;> [rfl; (cases b.rot <;> rfl)]
@[simp] theorem Blit.path1_dispCfg (b : Blit) (s : State) : (b.path1 s).dispCfg = s.dispCfg := by
  unfold Blit.path1; split <;> [rfl; (cases b.rot <;> rfl)]
@[simp] theorem Blit.path1_dispDim (b : Blit) (s : State) : (b.path1 s).dispDim = s.dispDim := by
  unfold Blit.path1; split <;> [rfl; (cases b.rot <;> rfl)]
@[simp] theorem Blit.path1_in0 (b : Blit) (s : State) : (b.path1 s).in0 = s.in0 := by
  unfold Blit.path1; split <;> [rfl; (cases b.rot <;> rfl)]
@[simp] theorem Blit.path1_in1 (b : Blit) (s : State) : (b.path1 s).in1 = s.in1 := by
  unfold Blit.path1; split <;> [rfl; (cases b.rot <;> rfl)]
@[simp] theorem Blit.path1_out0 (b : Blit) (s : State) : (b.path1 s).out0 = s.out0 := by
  unfold Blit.path1; split <;> [rfl; (cases b.rot <;> rfl)]
@[simp] theorem Blit.path1_out1 (b : Blit) (s : State) : (b.path1 s).out1 = s.out1 := by
  unfold Blit.path1; split <;> [rfl; (cases b.rot <;> rfl)]
@[simp] theorem Blit.path1_fsm (b : Blit) (s : State) : (b.path1 s).fsm = s.fsm := by
  unfold Blit.path1; split <;> [rfl; (cases b.rot <;> rfl)]
@[simp] theorem Blit.path1_config (b : Blit) (s : State) : (b.path1 s).config = s.config := by
  unfold Blit.path1; split <;> [rfl; (cases b.rot <;> rfl)]
@[simp] theorem Blit.path1_events (b : Blit) (s : State) : (b.path1 s).events = s.events := by
  unfold Blit.path1; split <;> [rfl; (cases b.rot <;> rfl)]
@[simp] theorem Blit.path1_turns (b : Blit) (s : State) : (b.path1 s).turns = s.turns := by
  unfold Blit.path1; split <;> [rfl; (cases b.rot <;> rfl)]
@[simp] theorem Blit.path1_reads (b : Blit) (s : State) : (b.path1 s).reads = s.reads := by
  unfold Blit.path1; split <;> [rfl; (cases b.rot <;> rfl)]
@[simp] theorem Blit.path1_updates (b : Blit) (s : State) : (b.path1 s).updates = s.updates := by
  unfold Blit.path1; split <;> [rfl; (cases b.rot <;> rfl)]
@[simp] theorem Blit.path1_portOwner (b : Blit) (s : State) : (b.path1 s).portOwner = s.portOwner := by
  unfold Blit.path1; split <;> [rfl; (cases b.rot <;> rfl)]
@[simp] theorem Blit.path1_draws (b : Blit) (s : State) : (b.path1 s).draws = s.draws := by
  unfold Blit.path1; split <;> [rfl; (cases b.rot <;> rfl)]

/-! ## BLIT2's path changes memory only (R100 to R103) -/

@[simp] theorem Blit.path2_cmd (b : Blit) (s : State) : (b.path2 s).cmd = s.cmd := by
  unfold Blit.path2; cases b.rot <;> rfl
@[simp] theorem Blit.path2_status (b : Blit) (s : State) : (b.path2 s).status = s.status := by
  unfold Blit.path2; cases b.rot <;> rfl
@[simp] theorem Blit.path2_srcAddr (b : Blit) (s : State) : (b.path2 s).srcAddr = s.srcAddr := by
  unfold Blit.path2; cases b.rot <;> rfl
@[simp] theorem Blit.path2_srcSize (b : Blit) (s : State) : (b.path2 s).srcSize = s.srcSize := by
  unfold Blit.path2; cases b.rot <;> rfl
@[simp] theorem Blit.path2_fbAddr (b : Blit) (s : State) : (b.path2 s).fbAddr = s.fbAddr := by
  unfold Blit.path2; cases b.rot <;> rfl
@[simp] theorem Blit.path2_dispCfg (b : Blit) (s : State) : (b.path2 s).dispCfg = s.dispCfg := by
  unfold Blit.path2; cases b.rot <;> rfl
@[simp] theorem Blit.path2_dispDim (b : Blit) (s : State) : (b.path2 s).dispDim = s.dispDim := by
  unfold Blit.path2; cases b.rot <;> rfl
@[simp] theorem Blit.path2_in0 (b : Blit) (s : State) : (b.path2 s).in0 = s.in0 := by
  unfold Blit.path2; cases b.rot <;> rfl
@[simp] theorem Blit.path2_in1 (b : Blit) (s : State) : (b.path2 s).in1 = s.in1 := by
  unfold Blit.path2; cases b.rot <;> rfl
@[simp] theorem Blit.path2_out0 (b : Blit) (s : State) : (b.path2 s).out0 = s.out0 := by
  unfold Blit.path2; cases b.rot <;> rfl
@[simp] theorem Blit.path2_out1 (b : Blit) (s : State) : (b.path2 s).out1 = s.out1 := by
  unfold Blit.path2; cases b.rot <;> rfl
@[simp] theorem Blit.path2_fsm (b : Blit) (s : State) : (b.path2 s).fsm = s.fsm := by
  unfold Blit.path2; cases b.rot <;> rfl
@[simp] theorem Blit.path2_config (b : Blit) (s : State) : (b.path2 s).config = s.config := by
  unfold Blit.path2; cases b.rot <;> rfl
@[simp] theorem Blit.path2_events (b : Blit) (s : State) : (b.path2 s).events = s.events := by
  unfold Blit.path2; cases b.rot <;> rfl
@[simp] theorem Blit.path2_turns (b : Blit) (s : State) : (b.path2 s).turns = s.turns := by
  unfold Blit.path2; cases b.rot <;> rfl
@[simp] theorem Blit.path2_reads (b : Blit) (s : State) : (b.path2 s).reads = s.reads := by
  unfold Blit.path2; cases b.rot <;> rfl
@[simp] theorem Blit.path2_updates (b : Blit) (s : State) : (b.path2 s).updates = s.updates := by
  unfold Blit.path2; cases b.rot <;> rfl
@[simp] theorem Blit.path2_portOwner (b : Blit) (s : State) : (b.path2 s).portOwner = s.portOwner := by
  unfold Blit.path2; cases b.rot <;> rfl
@[simp] theorem Blit.path2_draws (b : Blit) (s : State) : (b.path2 s).draws = s.draws := by
  unfold Blit.path2; cases b.rot <;> rfl

/-! ## `popTurn` uses up one turn (R125) -/

@[simp] theorem State.popTurn_cmd (s : State) : (s.popTurn).cmd = s.cmd := by
  unfold State.popTurn; split <;> rfl
@[simp] theorem State.popTurn_status (s : State) : (s.popTurn).status = s.status := by
  unfold State.popTurn; split <;> rfl
@[simp] theorem State.popTurn_srcAddr (s : State) : (s.popTurn).srcAddr = s.srcAddr := by
  unfold State.popTurn; split <;> rfl
@[simp] theorem State.popTurn_srcSize (s : State) : (s.popTurn).srcSize = s.srcSize := by
  unfold State.popTurn; split <;> rfl
@[simp] theorem State.popTurn_fbAddr (s : State) : (s.popTurn).fbAddr = s.fbAddr := by
  unfold State.popTurn; split <;> rfl
@[simp] theorem State.popTurn_dispCfg (s : State) : (s.popTurn).dispCfg = s.dispCfg := by
  unfold State.popTurn; split <;> rfl
@[simp] theorem State.popTurn_dispDim (s : State) : (s.popTurn).dispDim = s.dispDim := by
  unfold State.popTurn; split <;> rfl
@[simp] theorem State.popTurn_in0 (s : State) : (s.popTurn).in0 = s.in0 := by
  unfold State.popTurn; split <;> rfl
@[simp] theorem State.popTurn_in1 (s : State) : (s.popTurn).in1 = s.in1 := by
  unfold State.popTurn; split <;> rfl
@[simp] theorem State.popTurn_out0 (s : State) : (s.popTurn).out0 = s.out0 := by
  unfold State.popTurn; split <;> rfl
@[simp] theorem State.popTurn_out1 (s : State) : (s.popTurn).out1 = s.out1 := by
  unfold State.popTurn; split <;> rfl
@[simp] theorem State.popTurn_fsm (s : State) : (s.popTurn).fsm = s.fsm := by
  unfold State.popTurn; split <;> rfl
@[simp] theorem State.popTurn_mem (s : State) : (s.popTurn).mem = s.mem := by
  unfold State.popTurn; split <;> rfl
@[simp] theorem State.popTurn_config (s : State) : (s.popTurn).config = s.config := by
  unfold State.popTurn; split <;> rfl
@[simp] theorem State.popTurn_events (s : State) : (s.popTurn).events = s.events := by
  unfold State.popTurn; split <;> rfl
@[simp] theorem State.popTurn_reads (s : State) : (s.popTurn).reads = s.reads := by
  unfold State.popTurn; split <;> rfl
@[simp] theorem State.popTurn_updates (s : State) : (s.popTurn).updates = s.updates := by
  unfold State.popTurn; split <;> rfl
@[simp] theorem State.popTurn_portOwner (s : State) : (s.popTurn).portOwner = s.portOwner := by
  unfold State.popTurn; split <;> rfl
@[simp] theorem State.popTurn_draws (s : State) : (s.popTurn).draws = s.draws := by
  unfold State.popTurn; split <;> rfl

end Sys2Proof.Machine
end

