-- ==== Sys2Proof/Laws/Blit.lean ====
section
/-! SUPPORT. What the loops of the BLIT commands do to memory (one lemma for the pixel loop, whatever the pixel's
width, one for the clear, one for the padding fix's shape), and what a BLIT command can answer. -/

namespace Sys2Proof.Machine

/-! ## The front end -/

/-- Everything a BLIT command can answer (R83): an error, a stop the spec excludes, or its run. -/
theorem State.runBlit_next {s t : State} {n : Depth} {fast : Bool} {path : Blit → State → State}
    (h : s.runBlit n fast path = .next t) :
    (∃ e, s.admission n = .reject e ∧ t = s.raiseError e) ∨
      (∃ b, s.admission n = .run b ∧ t = (path b (s.clearFor b)).finishBlit fast) := by
  unfold State.runBlit at h
  split at h
  · next e he => cases h; exact .inl ⟨e, he, rfl⟩
  · cases h
  · cases h
  · next b hb => cases h; exact .inr ⟨b, hb, rfl⟩

theorem State.accessStop_eq_none {s : State} {base : Word} {len : Nat} :
    s.accessStop base len = none ↔ s.plain base len = true := by
  unfold State.accessStop State.plain
  cases s.touches .noResponse base len <;> cases s.touches .sideEffects base len <;> simp

/-- A range that is not plain memory stops a command, one way or the other (R44, R46). -/
theorem State.accessStop_eq_some {s : State} {base : Word} {len : Nat} {x : Admission}
    (h : s.accessStop base len = some x) :
    x = .stuck .memoryNoResponse ∨ x = .outside .sideEffectMemory := by
  unfold State.accessStop at h
  split at h
  · exact .inl (Option.some.inj h).symm
  · split at h
    · exact .inr (Option.some.inj h).symm
    · cases h

/-- A command runs exactly when its header can be read, its ten checks pass and its buffers are plain and apart. -/
theorem State.admission_run {s : State} {n : Depth} {b : Blit} :
    s.admission n = .run b ↔
      s.headerStop = none ∧ s.validate n = none ∧ s.bufferStop (s.blit n) = none ∧ b = s.blit n := by
  unfold State.admission
  split
  · next x hx =>
    simp only [hx, reduceCtorEq, false_and, iff_false]
    unfold State.headerStop at hx
    split at hx
    · cases hx
    · rcases State.accessStop_eq_some hx with h | h <;> simp [h]
  · next hx =>
    split
    · next e he => simp [he]
    · next he =>
      split
      · next x hb =>
        simp only [hx, he, hb, reduceCtorEq, false_and, and_false, iff_false]
        unfold State.bufferStop at hb
        split at hb
        · next y hy => cases hb; rcases State.accessStop_eq_some hy with h | h <;> simp [h]
        · split at hb
          · next y hy => cases hb; rcases State.accessStop_eq_some hy with h | h <;> simp [h]
          · split at hb
            · cases hb; simp
            · cases hb
      · next hb => simp [hx, he, hb, eq_comm]

/-- A command is rejected exactly when its header, if it is read, can be read, and a check fails. -/
theorem State.admission_reject {s : State} {n : Depth} {e : ErrorCode} :
    s.admission n = .reject e ↔ s.headerStop = none ∧ s.validate n = some e := by
  unfold State.admission
  split
  · next x hx =>
    simp only [hx, reduceCtorEq, false_and, iff_false]
    unfold State.headerStop at hx
    split at hx
    · cases hx
    · rcases State.accessStop_eq_some hx with h | h <;> simp [h]
  · next hx =>
    split
    · next e' he => simp [hx, he]
    · next he =>
      split
      · next x hb =>
        simp only [hx, he, reduceCtorEq, and_false, iff_false]
        unfold State.bufferStop at hb
        split at hb
        · next y hy => cases hb; rcases State.accessStop_eq_some hy with h | h <;> simp [h]
        · split at hb
          · next y hy => cases hb; rcases State.accessStop_eq_some hy with h | h <;> simp [h]
          · split at hb
            · cases hb; simp
            · cases hb
      · simp [he]

/-- The buffers of a validated command stop it unless they are plain and apart (R44, R46, R52). -/
theorem State.bufferStop_eq_none {s : State} {b : Blit} :
    s.bufferStop b = none ↔ s.plain b.src b.imageLen = true ∧ s.plain b.fb b.fbLen = true ∧
      rangesMeet b.src b.imageLen b.fb b.fbLen = false := by
  unfold State.bufferStop
  split
  · next x hx =>
    have : s.plain b.src b.imageLen ≠ true := fun h => by
      rw [State.accessStop_eq_none.mpr h] at hx; cases hx
    simp [this]
  · next hx =>
    split
    · next x hy =>
      have : s.plain b.fb b.fbLen ≠ true := fun h => by
        rw [State.accessStop_eq_none.mpr h] at hy; cases hy
      simp [this]
    · next hy =>
      rw [State.accessStop_eq_none] at hx hy
      simp [hx, hy]

/-! ## The ten checks and the header, as the claims write them -/

theorem Memory.readLE_two (m : Memory) (base : Word) (off : Nat) : m.readLE base off 2 = le16 m base off := by
  simp [Memory.readLE, le16, Nat.mul_comm]

theorem Memory.readLE_four (m : Memory) (base : Word) (off : Nat) : m.readLE base off 4 = le32 m base off := by
  simp [Memory.readLE, le32, Nat.mul_comm]

@[simp] theorem State.blit_depth (s : State) (n : Depth) : (s.blit n).depth = n := rfl
@[simp] theorem State.blit_src (s : State) (n : Depth) : (s.blit n).src = s.srcAddr := rfl
@[simp] theorem State.blit_fb (s : State) (n : Depth) : (s.blit n).fb = s.fbAddr := rfl
@[simp] theorem State.blit_lw (s : State) (n : Depth) : (s.blit n).lw = s.dispDim.lw.toNat := rfl
@[simp] theorem State.blit_lh (s : State) (n : Depth) : (s.blit n).lh = s.dispDim.lh.toNat := rfl
@[simp] theorem State.blit_rot (s : State) (n : Depth) :
    (s.blit n).rot = Rotation.ofCode s.dispCfg.rot.toNat := rfl
@[simp] theorem State.blit_sw (s : State) (n : Depth) : (s.blit n).sw = le16 s.mem s.srcAddr 0x04 :=
  Memory.readLE_two _ _ _
@[simp] theorem State.blit_sh (s : State) (n : Depth) : (s.blit n).sh = le16 s.mem s.srcAddr 0x06 :=
  Memory.readLE_two _ _ _

theorem firstFailing_cons (c : Bool) (e : ErrorCode) (rest : List (Bool × ErrorCode)) :
    firstFailing ((c, e) :: rest) = if c = true then some e else firstFailing rest := by
  cases c <;> simp [firstFailing]

@[simp] theorem firstFailing_nil : firstFailing [] = none := rfl

/-- The model's list of checks and the claims' chain of conditions are the same function. -/
theorem State.validate_eq_firstError (s : State) (n : Depth) : s.validate n = s.firstError n := by
  have hnw : 3 < s.dispCfg.rot.toNat ∨
      (s.blit n).nw = if s.dispCfg.rot.toNat = 0 ∨ s.dispCfg.rot.toNat = 2 then s.dispDim.lw.toNat
        else s.dispDim.lh.toNat := by
    rcases Nat.lt_or_ge 3 s.dispCfg.rot.toNat with h | h
    · exact .inl h
    · right
      have : s.dispCfg.rot.toNat = 0 ∨ s.dispCfg.rot.toNat = 1 ∨ s.dispCfg.rot.toNat = 2 ∨
          s.dispCfg.rot.toNat = 3 := by omega
      rcases this with e | e | e | e <;> simp [Blit.nw, State.blit, Rotation.ofCode, e]
  simp only [State.validate, State.entryChecks, State.headerChecks, List.cons_append, List.nil_append,
    firstFailing_cons, firstFailing_nil, State.header, Memory.readLE_two, Memory.readLE_four,
    State.blit_sw, State.blit_sh, State.blit_lw, State.blit_lh,
    Bool.or_eq_true, bne_iff_ne, beq_iff_eq, decide_eq_true_eq, Bool.and_eq_true, or_assoc]
  rcases hnw with h | h
  · simp only [h, if_true, State.firstError]
    cases n <;> rfl
  · simp only [h, State.firstError]
    cases n <;> rfl

/-- Checks 1 and 2 in the claims' words. -/
theorem State.headerRead_iff {s : State} : s.headerRead ↔ firstFailing s.entryChecks = none := by
  have h22 : Config.hdrSize = 22 := rfl
  rw [State.entryChecks, firstFailing_cons, firstFailing_cons, firstFailing_nil, h22]
  by_cases h : s.srcAddr = 0 ∨ s.fbAddr = 0
  · have : (s.srcAddr == 0 || s.fbAddr == 0) = true := by simpa using h
    rw [if_pos this]
    simp only [State.headerRead, reduceCtorEq, iff_false]
    tauto
  · have : ¬(s.srcAddr == 0 || s.fbAddr == 0) = true := by simpa using h
    rw [if_neg this]
    rcases Nat.lt_or_ge s.srcSize.toNat 22 with h3 | h3
    · simp only [h3, decide_true, if_true, reduceCtorEq, iff_false, State.headerRead, not_and, Nat.not_le, implies_true]
    · simp only [Nat.not_lt.mpr h3, decide_false, Bool.false_eq_true, if_false, iff_true, State.headerRead]
      tauto

/-- A validated command has read its header. -/
theorem State.headerRead_of_firstError {s : State} {n : Depth} (h : s.firstError n = none) : s.headerRead := by
  rw [State.headerRead_iff]
  have := State.validate_eq_firstError s n
  rw [h, State.validate, firstFailing, Option.map_eq_none_iff, List.find?_append, Option.or_eq_none_iff] at this
  rw [firstFailing, this.1]; rfl

/-- What `touches` says, in the claims' words. -/
theorem State.touches_iff {s : State} {k : RegionKind} {base : Word} {len : Nat} :
    s.touches k base len = true ↔ s.meetsRegion k base len := by
  simp only [State.touches, List.any_eq_true, Bool.and_eq_true, beq_iff_eq, rangesMeet_iff, State.meetsRegion]

theorem State.plain_hdr {s : State} {base : Word} {len : Nat} (h : s.plain base len = true) {len' : Nat}
    (hle : len' ≤ len) : s.plain base len' = true := by
  simp only [State.plain, State.touches, Bool.and_eq_true, Bool.not_eq_true', List.any_eq_false,
    Bool.and_eq_true, not_and, Bool.not_eq_true] at h ⊢
  refine ⟨fun r hr hk => ?_, fun r hr hk => ?_⟩
  · have := h.1 r hr hk
    cases hm : rangesMeet r.base r.len base len' with
    | false => rfl
    | true =>
      obtain ⟨a, ha, h1, h2⟩ := rangesMeet_iff.mp hm
      rw [rangesMeet_iff.mpr ⟨a, ha, h1, by simp only [inRange, decide_eq_true_eq] at h2 ⊢; omega⟩] at this
      cases this
  · have := h.2 r hr hk
    cases hm : rangesMeet r.base r.len base len' with
    | false => rfl
    | true =>
      obtain ⟨a, ha, h1, h2⟩ := rangesMeet_iff.mp hm
      rw [rangesMeet_iff.mpr ⟨a, ha, h1, by simp only [inRange, decide_eq_true_eq] at h2 ⊢; omega⟩] at this
      cases this

/-- A ready command is admitted. -/
theorem State.blitReady.admission {s : State} {n : Depth} (h : s.blitReady n) : s.admission n = .run (s.blit n) := by
  obtain ⟨he, hi, hf, hr⟩ := h
  have hv : s.validate n = none := by rw [State.validate_eq_firstError, he]
  refine State.admission_run.mpr ⟨?_, hv, State.bufferStop_eq_none.mpr ⟨hi, hf, hr⟩, rfl⟩
  unfold State.headerStop
  split
  · rfl
  · exact State.accessStop_eq_none.mpr (State.plain_hdr hi (Nat.le_add_right _ _))

/-- What stops an access to a range, in the claims' words (R44, R46). -/
theorem State.accessStop_eq (s : State) (base : Word) (len : Nat) : s.accessStop base len =
    if s.touches .noResponse base len then some (.stuck .memoryNoResponse)
    else if s.touches .sideEffects base len then some (.outside .sideEffectMemory) else none := rfl

/-! ## The native size, as the claims write it -/

theorem State.blit_nw (s : State) (n : Depth) : (s.blit n).nw = s.nativeWidth := by
  have h : ∀ r : BitVec 8, (match Rotation.ofCode r.toNat with | .deg0 | .deg180 => true | .deg90 | .deg270 => false) =
      decide (r = 0 ∨ r = 2) := by decide
  have := h s.dispCfg.rot
  unfold Blit.nw State.nativeWidth
  rw [State.blit_rot]
  cases hr : Rotation.ofCode s.dispCfg.rot.toNat <;> rw [hr] at this <;> simp only [eq_comm (a := true),
    eq_comm (a := false), decide_eq_true_eq, decide_eq_false_iff_not] at this <;> simp only [this, if_true, if_false] <;> rfl

theorem State.blit_nh (s : State) (n : Depth) : (s.blit n).nh = s.nativeHeight := by
  have h : ∀ r : BitVec 8, (match Rotation.ofCode r.toNat with | .deg0 | .deg180 => true | .deg90 | .deg270 => false) =
      decide (r = 0 ∨ r = 2) := by decide
  have := h s.dispCfg.rot
  unfold Blit.nh State.nativeHeight
  rw [State.blit_rot]
  cases hr : Rotation.ofCode s.dispCfg.rot.toNat <;> rw [hr] at this <;> simp only [eq_comm (a := true),
    eq_comm (a := false), decide_eq_true_eq, decide_eq_false_iff_not] at this <;> simp only [this, if_true, if_false] <;> rfl

theorem State.blit_fbLen (s : State) (n : Depth) : (s.blit n).fbLen = s.nativeLen n.bits := by
  unfold Blit.fbLen Blit.dstPitch State.nativeLen State.nativePitch
  rw [State.blit_depth, State.blit_nw, State.blit_nh]
  cases n <;> rfl

/-! ## The pixel loop -/

/-- Induction over the pixel loop: rows outside, columns inside. -/
theorem Blit.forPixels_induct {b : Blit} {body : Nat → Nat → Memory → Memory} {m : Memory}
    (P : Nat → Nat → Memory → Prop) (start : P 0 0 m)
    (pixel : ∀ y, y < b.copyH → ∀ x, x < b.copyW → ∀ m, P y x m → P y (x + 1) (body x y m))
    (row : ∀ y, y < b.copyH → ∀ m, P y b.copyW m → P (y + 1) 0 m) :
    P b.copyH 0 (b.forPixels body m) :=
  forRange_induct (fun y => P y 0) start fun y hy _ h =>
    row y hy _ (forRange_induct (P y) h fun x hx _ h => pixel y hy x hx _ h)

/-- A pixel format: where a pixel lies in a byte, and how it is read and replaced. -/
structure PixelFormat (β : Type) where
  slots : Nat
  get   : Byte → Nat → β
  set   : Byte → Nat → β → Byte
  law   : ∀ v k d k', k < slots → k' < slots → get (set v k d) k' = if k = k' then d else get v k'

/-- 1bpp: eight one-bit pixels, slot `j` being bit `j` (R10). -/
def oneBit : PixelFormat Bool :=
  { slots := 8, get := fun v j => v.getLsbD j, set := setBitOf,
    law := fun v _ d _ hk hk' => getLsbD_setBitOf v d hk hk' }

/-- 2bpp: four two-bit pixels (R10). -/
def twoBit : PixelFormat (BitVec 2) :=
  { slots := 4, get := field2Of, set := setField2Of,
    law := fun v _ d _ hk hk' => field2Of_setField2Of v d hk hk' }

/-- What one pixel loop does, for a loop that puts source pixel `(x, y)` at slot `slot x y` of framebuffer byte
`off x y`: every byte outside the first `len` of the framebuffer is unchanged, every pixel of the copy region is its
source pixel, every other slot of the framebuffer is unchanged, and memory stays canonical. -/
theorem Blit.forPixels_spec {β : Type} (F : PixelFormat β) {b : Blit} {m : Memory} (hm : m.wf)
    {off slot : Nat → Nat → Nat} {src : Memory → Nat → Nat → β} {len : Nat} (hlen : len ≤ 2 ^ 32)
    (hoff : ∀ x y, x < b.copyW → y < b.copyH → off x y < len ∧ slot x y < F.slots)
    (hinj : ∀ x y x' y', x < b.copyW → y < b.copyH → x' < b.copyW → y' < b.copyH →
      off x y = off x' y' → slot x y = slot x' y' → x = x' ∧ y = y')
    (hsrc : ∀ m' : Memory, (∀ a, a < 2 ^ 32 → inRange b.fb len a = false → m'.read a = m.read a) →
      ∀ x y, x < b.copyW → y < b.copyH → src m' x y = src m x y) :
    let m' := b.forPixels (fun x y m =>
      m.writeAt b.fb (off x y) (F.set (m.readAt b.fb (off x y)) (slot x y) (src m x y))) m
    m'.wf ∧ (∀ a, a < 2 ^ 32 → inRange b.fb len a = false → m'.read a = m.read a) ∧
      (∀ x y, x < b.copyW → y < b.copyH →
        F.get (m'.readAt b.fb (off x y)) (slot x y) = src m x y) ∧
      (∀ o k, o < len → k < F.slots →
        (∀ x y, x < b.copyW → y < b.copyH → ¬(off x y = o ∧ slot x y = k)) →
        F.get (m'.readAt b.fb o) k = F.get (m.readAt b.fb o) k) := by
  intro m'
  have key := Blit.forPixels_induct (b := b) (m := m)
    (body := fun x y m =>
      m.writeAt b.fb (off x y) (F.set (m.readAt b.fb (off x y)) (slot x y) (src m x y)))
    (P := fun y x m' =>
      m'.wf ∧ (∀ a, a < 2 ^ 32 → inRange b.fb len a = false → m'.read a = m.read a) ∧
      (∀ x' y', x' < b.copyW → y' < b.copyH → (y' < y ∨ (y' = y ∧ x' < x)) →
        F.get (m'.readAt b.fb (off x' y')) (slot x' y') = src m x' y') ∧
      (∀ o k, o < len → k < F.slots →
        (∀ x' y', x' < b.copyW → y' < b.copyH → (y' < y ∨ (y' = y ∧ x' < x)) →
          ¬(off x' y' = o ∧ slot x' y' = k)) →
        F.get (m'.readAt b.fb o) k = F.get (m.readAt b.fb o) k))
    ⟨hm, fun _ _ _ => rfl, fun x' y' _ _ h => by omega, fun _ _ _ _ _ => rfl⟩
    (fun y hy x hx m₁ ⟨hwf, hout, hdone, hrest⟩ => by
      obtain ⟨ho, hk⟩ := hoff x y hx hy
      have hread : ∀ o, o < len →
          Memory.readAt (m₁.writeAt b.fb (off x y)
            (F.set (m₁.readAt b.fb (off x y)) (slot x y) (src m₁ x y))) b.fb o =
          if off x y = o then F.set (m₁.readAt b.fb (off x y)) (slot x y) (src m₁ x y)
          else m₁.readAt b.fb o := by
        intro o ho'
        unfold Memory.readAt
        rw [Memory.read_writeAt hwf]
        by_cases e : off x y = o
        · simp [e]
        · have : busAddr b.fb (off x y) ≠ busAddr b.fb o := fun h =>
            e (busAddr_inj (by omega) (by omega) h)
          simp [e, this]
      have hget : ∀ o k, o < len → k < F.slots →
          F.get (Memory.readAt (m₁.writeAt b.fb (off x y)
            (F.set (m₁.readAt b.fb (off x y)) (slot x y) (src m₁ x y))) b.fb o) k =
          if off x y = o ∧ slot x y = k then src m x y else F.get (m₁.readAt b.fb o) k := by
        intro o k ho' hk'
        rw [hread o ho']
        by_cases e : off x y = o
        · subst e
          rw [if_pos rfl, F.law _ _ _ _ hk hk', hsrc m₁ hout x y hx hy]
          by_cases e' : slot x y = k <;> simp [e']
        · simp [e]
      refine ⟨Memory.wf_writeAt hwf _ _ _, fun a ha hna => ?_, fun x' y' hx' hy' h => ?_,
        fun o k ho' hk' h => ?_⟩
      · rw [Memory.read_writeAt hwf]
        have : busAddr b.fb (off x y) ≠ a := fun e => by
          rw [← e, inRange_busAddr ho] at hna; cases hna
        rw [if_neg this]; exact hout a ha hna
      · obtain ⟨ho', hk'⟩ := hoff x' y' hx' hy'
        rw [hget _ _ ho' hk']
        split
        · next e =>
          obtain ⟨rfl, rfl⟩ := hinj x y x' y' hx hy hx' hy' e.1 e.2
          rfl
        · next e =>
          refine hdone x' y' hx' hy' ?_
          rcases h with h | ⟨rfl, h⟩
          · exact .inl h
          · refine .inr ⟨rfl, ?_⟩
            rcases Nat.lt_succ_iff_lt_or_eq.mp h with h | rfl
            · exact h
            · exact absurd ⟨rfl, rfl⟩ e
      · rw [hget _ _ ho' hk', if_neg (h x y hx hy (.inr ⟨rfl, Nat.lt_succ_self x⟩))]
        exact hrest o k ho' hk' fun x' y' hx' hy' hlt => h x' y' hx' hy' (by omega))
    (fun y hy m₁ ⟨hwf, hout, hdone, hrest⟩ =>
      ⟨hwf, hout, fun x' y' hx' hy' h => hdone x' y' hx' hy' (by omega),
        fun o k ho hk h => hrest o k ho hk fun x' y' hx' hy' hlt => h x' y' hx' hy' (by omega)⟩)
  obtain ⟨hwf, hout, hdone, hrest⟩ := key
  exact ⟨hwf, hout, fun x y hx hy => hdone x y hx hy (.inl hy),
    fun o k ho hk h => hrest o k ho hk fun x y hx hy _ => h x y hx hy⟩

/-! ## The clear and every other loop over framebuffer bytes -/

/-- What a loop that writes byte `off i` of the framebuffer at iteration `i`, no byte twice, does: it writes those
bytes and no other, and keeps memory canonical. The value may depend on memory as long as it reads nothing that the
loop has written. -/
theorem forRange_writeAt_spec {m : Memory} (hm : m.wf) {base : Word} {n len : Nat} (hlen : len ≤ 2 ^ 32)
    {off : Nat → Nat} {val : Memory → Nat → Byte} (hoff : ∀ i, i < n → off i < len)
    (hinj : ∀ i j, i < n → j < n → off i = off j → i = j)
    (hval : ∀ i, i < n → ∀ m' : Memory,
      (∀ a, a < 2 ^ 32 → (∀ j, j < i → busAddr base (off j) ≠ a) → m'.read a = m.read a) →
      val m' i = val m i) :
    let m' := forRange n (fun i m => m.writeAt base (off i) (val m i)) m
    m'.wf ∧ (∀ a, a < 2 ^ 32 → (∀ j, j < n → busAddr base (off j) ≠ a) → m'.read a = m.read a) ∧
      (∀ i, i < n → m'.readAt base (off i) = val m i) := by
  intro m'
  refine forRange_induct (fun k (m' : Memory) => k ≤ n → m'.wf ∧
      (∀ a, a < 2 ^ 32 → (∀ j, j < k → busAddr base (off j) ≠ a) → m'.read a = m.read a) ∧
      (∀ i, i < k → m'.readAt base (off i) = val m i)) ?_ ?_ (Nat.le_refl n)
  · exact fun _ => ⟨hm, fun _ _ _ => rfl, fun i hi => absurd hi (Nat.not_lt_zero i)⟩
  · intro k hk m₁ ih hk'
    obtain ⟨hwf, hout, hin⟩ := ih (Nat.le_of_lt hk)
    refine ⟨Memory.wf_writeAt hwf _ _ _, fun a ha h => ?_, fun i hi => ?_⟩
    · rw [Memory.read_writeAt hwf, if_neg (h k (Nat.lt_succ_self k))]
      exact hout a ha fun j hj => h j (Nat.lt_succ_of_lt hj)
    · unfold Memory.readAt
      rw [Memory.read_writeAt hwf]
      split
      · next e =>
        have : i = k := hinj i k (by omega) hk (busAddr_inj
          (Nat.lt_of_lt_of_le (hoff i (by omega)) hlen) (Nat.lt_of_lt_of_le (hoff k hk) hlen) e.symm)
        subst this
        exact hval i hk m₁ hout
      · next e =>
        refine hin i ?_
        rcases Nat.lt_succ_iff_lt_or_eq.mp hi with h | rfl
        · exact h
        · exact absurd rfl e

/-- The clear fills the framebuffer and changes nothing else (R79). -/
theorem Blit.fill_spec {b : Blit} {m : Memory} (hm : m.wf) (hlen : b.fbLen ≤ 2 ^ 32) :
    (b.fill m).wf ∧
      (∀ a, a < 2 ^ 32 → inRange b.fb b.fbLen a = false → (b.fill m).read a = m.read a) ∧
      (∀ i, i < b.fbLen → (b.fill m).readAt b.fb i = b.depth.white) := by
  obtain ⟨hwf, hout, hin⟩ := forRange_writeAt_spec (n := b.fbLen) hm (base := b.fb) hlen (off := fun i => i)
    (val := fun _ _ => b.depth.white) (fun i hi => hi) (fun _ _ _ _ h => h) (fun _ _ _ _ => rfl)
  refine ⟨hwf, fun a ha hna => hout a ha fun j hj e => ?_, hin⟩
  rw [← e, inRange_busAddr hj] at hna; cases hna

/-! ## Every write of a command keeps memory canonical -/

theorem Blit.wf_forPixels {b : Blit} {body : Nat → Nat → Memory → Memory} {m : Memory} (hm : m.wf)
    (h : ∀ x y m, m.wf → (body x y m).wf) : (b.forPixels body m).wf :=
  Blit.forPixels_induct (fun _ _ m => m.wf) hm (fun y _ x _ m hm => h x y m hm) (fun _ _ _ hm => hm)

theorem Blit.wf_fastPath {b : Blit} {m : Memory} (hm : m.wf) : (b.fastPath m).wf := by
  have hc : (b.bulkCopy m).wf :=
    forRange_keeps (fun m : Memory => m.wf) hm fun _ _ _ hx => Memory.wf_writeAt hx _ _ _
  unfold Blit.fastPath Blit.fixPadding
  split
  · exact hc
  · exact forRange_keeps (fun m : Memory => m.wf) hc fun _ _ _ hx => Memory.wf_writeAt hx _ _ _

theorem State.wf_clearFor {s : State} (hm : s.mem.wf) (b : Blit) : (s.clearFor b).mem.wf := by
  unfold State.clearFor
  split
  · exact hm
  · exact forRange_keeps (fun m : Memory => m.wf) hm fun _ _ _ hx => Memory.wf_writeAt hx _ _ _

theorem Blit.wf_path1 {s : State} (hm : s.mem.wf) (b : Blit) : (b.path1 s).mem.wf := by
  unfold Blit.path1
  split
  · exact Blit.wf_fastPath hm
  · cases b.rot <;> exact Blit.wf_forPixels hm fun _ _ _ h => Memory.wf_setBit h _ _ _ _

theorem Blit.wf_path2 {s : State} (hm : s.mem.wf) (b : Blit) : (b.path2 s).mem.wf := by
  unfold Blit.path2
  cases b.rot <;> exact Blit.wf_forPixels hm fun _ _ _ h => Memory.wf_setField2 h _ _ _ _

theorem State.wf_scramble {s : State} (hm : s.mem.wf) (b : Blit) : (s.scramble b).mem.wf :=
  forRange_keeps (fun m : Memory => m.wf) hm fun _ _ _ hx => Memory.wf_writeAt hx _ _ _

end Sys2Proof.Machine
end

