-- ==== Sys2Proof/Laws/Decode.lean ====
section
/-! SUPPORT. Words and fields determine each other, and the decoder by fields: what it accepts and what it rejects. -/

namespace Sys2Proof

/-- A word is determined by its three fields (R56). -/
theorem CommandFields.ofWord_inj {v w : Word} (h : CommandFields.ofWord v = CommandFields.ofWord w) : v = w := by
  simp only [CommandFields.ofWord, CommandFields.mk.injEq] at h
  obtain ⟨hop, hfast, hrsv⟩ := h
  apply BitVec.eq_of_getLsbD_eq
  intro i hi
  rcases Nat.lt_or_ge i 4 with h4 | h4
  · simpa [BitVec.getLsbD_extractLsb', h4] using congrArg (fun x => x.getLsbD i) hop
  · rcases Nat.lt_or_ge i 5 with h5 | h5
    · obtain rfl : i = 4 := by omega
      exact hfast
    · have h27 : i - 5 < 27 := by omega
      have e : 5 + (i - 5) = i := by omega
      simpa [BitVec.getLsbD_extractLsb', h27, e] using congrArg (fun x => x.getLsbD (i - 5)) hrsv

/-- The pattern of a command has the command's fields. -/
@[simp] theorem CommandFields.ofWord_encode (i : Instr) : CommandFields.ofWord (encode i) = i.fields := by
  rcases i with f | f | _ | _ | _ | _ | _ <;> (try cases f) <;> rfl

/-- The fields of a command decode to it, and no other fields do. -/
theorem decodeFields_eq_ok {c : CommandFields} {i : Instr} : decodeFields c = .ok i ↔ c = i.fields := by
  constructor
  · obtain ⟨op, fast, rsv⟩ := c
    intro h
    unfold decodeFields at h
    split at h
    · cases h
    · next hr =>
      obtain rfl : rsv = 0 := by simpa using hr
      have hop : op = BitVec.ofNat 4 op.toNat := by simp
      have hlt : op.toNat < 16 := op.isLt
      simp only at h
      generalize op.toNat = k at h hop hlt
      subst hop
      interval_cases k <;> simp only [primitiveOf, reduceCtorEq] at h <;>
        (cases fast <;> simp only [if_true, Bool.false_eq_true, if_false, Except.ok.injEq, reduceCtorEq] at h) <;>
        (subst h; rfl)
  · rintro rfl
    rcases i with f | f | _ | _ | _ | _ | _ <;> rfl

/-- Fields decode to some command exactly when the three conditions of R59 hold. -/
theorem decodeFields_isOk {c : CommandFields} : c.wellFormed = true ↔ ∃ i, decodeFields c = .ok i := by
  constructor
  · obtain ⟨op, fast, rsv⟩ := c
    intro h
    simp only [CommandFields.wellFormed, CommandFields.rsvClear, CommandFields.opAssigned,
      CommandFields.fastAllowed, Bool.and_eq_true, beq_iff_eq, decide_eq_true_eq] at h
    obtain ⟨⟨rfl, hlo, hhi⟩, hf⟩ := h
    have hop : op = BitVec.ofNat 4 op.toNat := by simp
    unfold decodeFields
    simp only [ne_eq, not_true_eq_false, if_false]
    generalize op.toNat = k at hlo hhi hop
    subst hop
    interval_cases k <;> cases fast <;> simp_all [primitiveOf]
  · rintro ⟨i, h⟩
    rw [decodeFields_eq_ok.mp h]
    rcases i with f | f | _ | _ | _ | _ | _ <;> (try cases f) <;> rfl

end Sys2Proof
end

