-- ==== Sys2Proof/Laws/PerInstr.lean ====
section
/-! SUPPORT. The per-instruction family EncodingRow: a command's pattern is its row's match under its row's mask in
spec/opcode_table.json. -/

namespace Sys2Proof.Laws.EncodingRow

/-- The row's mask (0xFFFFFFEF leaves FAST free, R58). -/
def mask : Instr → Word
  | .blit1 _ | .blit2 _ => 0xFFFFFFEF#32
  | .rev8 | .xpose8 | .mask1 | .mask2 | .lut2 => 0xFFFFFFFF#32

/-- The row's match. -/
def pattern : Instr → Word
  | .blit1 _ => 0x00000001#32
  | .blit2 _ => 0x00000002#32
  | .rev8 => 0x00000003#32
  | .xpose8 => 0x00000004#32
  | .mask1 => 0x00000005#32
  | .mask2 => 0x00000006#32
  | .lut2 => 0x00000007#32

/-- The encoded word matches its row, and is well formed by the three conditions of R59. -/
def Statement (i : Instr) : Prop := encode i &&& mask i = pattern i ∧ (CommandFields.ofWord (encode i)).wellFormed = true

theorem blit1 (fast : Bool) : Statement (.blit1 fast) := by cases fast <;> exact ⟨rfl, rfl⟩
theorem blit2 (fast : Bool) : Statement (.blit2 fast) := by cases fast <;> exact ⟨rfl, rfl⟩
theorem rev8 : Statement .rev8 := ⟨rfl, rfl⟩
theorem xpose8 : Statement .xpose8 := ⟨rfl, rfl⟩
theorem mask1 : Statement .mask1 := ⟨rfl, rfl⟩
theorem mask2 : Statement .mask2 := ⟨rfl, rfl⟩
theorem lut2 : Statement .lut2 := ⟨rfl, rfl⟩

end Sys2Proof.Laws.EncodingRow
end

