-- ==== Sys2Proof/Laws/Registers.lean ====
section
/-! SUPPORT. The register file as the port sees it: names and offsets determine each other, the packed registers read
back what was written, and the bits of STATUS. -/

namespace Sys2Proof.Machine

@[simp] theorem Reg.ofOffset_offset (r : Reg) : Reg.ofOffset r.offset = some r := by cases r <;> rfl

theorem Reg.offset_of_ofOffset {off : Nat} {r : Reg} (h : Reg.ofOffset off = some r) : off = r.offset := by
  unfold Reg.ofOffset at h
  split at h <;> first | (cases h; rfl) | cases h

/-- No register stands at a reserved offset (R25). -/
theorem Reg.ofOffset_reserved {off : Nat} (h : 0x2C ≤ off) : Reg.ofOffset off = none := by
  unfold Reg.ofOffset; split <;> first | rfl | omega

/-- DISP_CFG reads back the low half of what was written (R21). -/
@[simp] theorem DispCfg.word_ofWord (w : Word) : (DispCfg.ofWord w).word = w &&& 0x0000FFFF#32 := by
  apply BitVec.eq_of_getLsbD_eq; intro j hj
  interval_cases j <;> simp [DispCfg.word, DispCfg.ofWord]

/-- DISP_DIM reads back what was written (R22). -/
@[simp] theorem DispDim.word_ofWord (w : Word) : (DispDim.ofWord w).word = w := by
  apply BitVec.eq_of_getLsbD_eq; intro j hj
  interval_cases j <;> simp [DispDim.word, DispDim.ofWord]

/-- The reserved bits of DISP_CFG ignore the written bits (R21, R25). -/
theorem DispCfg.ofWord_low (w : Word) : DispCfg.ofWord (w &&& 0x0000FFFF#32) = DispCfg.ofWord w := by
  unfold DispCfg.ofWord
  congr 1 <;> (apply BitVec.eq_of_getLsbD_eq; intro j hj; interval_cases j <;> simp)

/-- The reserved bits of DISP_CFG read 0 (R21, R25). -/
theorem DispCfg.word_high (d : DispCfg) : d.word.extractLsb' 16 16 = 0 := by
  apply BitVec.eq_of_getLsbD_eq; intro j hj
  interval_cases j <;> simp [DispCfg.word]

/-- STATUS bit by bit (R18). -/
theorem State.getLsbD_statusWord (s : State) (i : Nat) : s.statusWord.getLsbD i = (decide (i < 32) && s.statusBit i) :=
  getLsbD_bitsOf _ _ _

/-- Bits 11:8 of STATUS are the code (R18). -/
theorem State.statusWord_err (s : State) : s.statusWord.extractLsb' 8 4 = s.status.err.code := by
  apply BitVec.eq_of_getLsbD_eq; intro j hj
  rw [BitVec.getLsbD_extractLsb', State.getLsbD_statusWord]
  interval_cases j <;> rfl

/-- The bits of STATUS from 12 up read 0 (R18, R25). -/
theorem State.statusWord_high (s : State) {i : Nat} (hi : 12 ≤ i) : s.statusWord.getLsbD i = false := by
  rw [State.getLsbD_statusWord]
  obtain ⟨k, rfl⟩ := Nat.exists_eq_add_of_le hi
  have : s.statusBit (12 + k) = false := by
    unfold State.statusBit; split <;> first | rfl | omega
  rw [this, Bool.and_false]

/-- STATUS depends on the state machine and the flags alone. -/
theorem State.statusWord_congr {s t : State} (hf : t.fsm = s.fsm) (hs : t.status = s.status) :
    t.statusWord = s.statusWord := by
  have : t.statusBit = s.statusBit := by
    funext i; unfold State.statusBit State.busy; rw [hf, hs]
  unfold State.statusWord; rw [this]

/-- A write to a parameter register leaves every other register as it reads. -/
theorem State.getReg_setReg_parameter (s : State) {r r' : Reg} (w : Word) (hr : r.isParameter = true) (hne : r' ≠ r) :
    (s.setReg r w).getReg r' = s.getReg r' := by
  cases r' with
  | status =>
    refine State.statusWord_congr ?_ ?_ <;> (cases r <;> first | exact absurd hr (by decide) | rfl)
  | _ => cases r <;> first | exact absurd hr (by decide) | exact absurd rfl hne | rfl

end Sys2Proof.Machine
end

