-- ==== Sys2Proof/Laws/Step.lean ====
section
/-! SUPPORT. What each kind of step can answer: one inversion lemma for the engine step, one for each event, one for
the step, from which the rules about every step follow. -/

namespace Sys2Proof.Machine

/-! ## The engine step -/

/-- The path of a format's BLIT command (R82). -/
def Depth.path : Depth → Blit → State → State
  | .one => Blit.path1
  | .two => Blit.path2

theorem exec_blit (n : Depth) (fast : Bool) (s : State) :
    exec (n.instr fast) s = s.runBlit n fast n.path := by cases n <;> rfl

/-- The whole of a BLIT command's effect outside memory: `fp` says whether the fast path ran. -/
def State.afterBlit (s : State) (n : Depth) (fast : Bool) (m : Memory) (fp : Bool) : State :=
  { s with
    mem := m, fsm := .idle,
    status := { done := true, upd := true, updFast := fast, clr := s.status.clr || !(s.blit n).covers,
                fastpath := s.status.fastpath || fp, ovr := s.status.ovr, err := .ok },
    updates := s.updates ++ [kindOf fast] }

/-- Whether a BLIT takes the fast path (R82). -/
def Depth.takesFastPath (n : Depth) (b : Blit) : Bool :=
  match n with
  | .one => b.isFullscreen
  | .two => false

/-- The memory a BLIT command leaves: the clear, then the path (R83). -/
def State.blitMemory (s : State) (n : Depth) : Memory :=
  (n.path (s.blit n) (s.clearFor (s.blit n))).mem

theorem Depth.path_eq (n : Depth) (b : Blit) (s : State) :
    n.path b s = { s with mem := (n.path b s).mem,
                          status := { s.status with fastpath := s.status.fastpath || n.takesFastPath b } } := by
  cases n
  · cases hf : b.isFullscreen <;> cases hr : b.rot <;> simp [Depth.path, Blit.path1, Depth.takesFastPath, hf, hr]
  · cases hr : b.rot <;> simp [Depth.path, Blit.path2, Depth.takesFastPath, hr]

theorem State.clearFor_eq (s : State) (b : Blit) :
    s.clearFor b = { s with mem := (s.clearFor b).mem, status := { s.status with clr := s.status.clr || !b.covers } } := by
  unfold State.clearFor
  cases h : b.covers <;> simp

/-- A BLIT command that runs (R83), in one line. -/
theorem State.runBlit_run (s : State) (n : Depth) (fast : Bool) :
    (n.path (s.blit n) (s.clearFor (s.blit n))).finishBlit fast =
      s.afterBlit n fast (s.blitMemory n) (n.takesFastPath (s.blit n)) := by
  unfold State.blitMemory State.afterBlit
  generalize hm : (n.path (s.blit n) (s.clearFor (s.blit n))).mem = m
  rw [Depth.path_eq, hm, State.clearFor_eq]
  cases fast <;> rfl

/-- The answer of a BLIT command whose buffers allow it to run. -/
theorem exec_blit_of_admission {s : State} {n : Depth} (h : s.admission n = .run (s.blit n)) (fast : Bool) :
    exec (n.instr fast) s = .next (s.afterBlit n fast (s.blitMemory n) (n.takesFastPath (s.blit n))) := by
  rw [exec_blit, State.runBlit, h]
  exact congrArg _ (State.runBlit_run s n fast)

/-- A ready BLIT command completes. -/
theorem exec_blit_of_ready {s : State} {n : Depth} (h : s.blitReady n) (fast : Bool) :
    exec (n.instr fast) s = .next (s.afterBlit n fast (s.blitMemory n) (n.takesFastPath (s.blit n))) :=
  exec_blit_of_admission h.admission fast

theorem firstFailing_mem {checks : List (Bool × ErrorCode)} {e : ErrorCode} (h : firstFailing checks = some e) :
    e ∈ checks.map (·.2) := by
  obtain ⟨c, hc, rfl⟩ := Option.map_eq_some_iff.mp h
  exact List.mem_map_of_mem (List.mem_of_find?_eq_some hc)

/-- No check reports success (R66 to R75). -/
theorem State.validate_ne_ok (s : State) (n : Depth) : s.validate n ≠ some .ok := fun h => by
  have := firstFailing_mem h
  simp [State.entryChecks, State.headerChecks] at this

/-- Everything an engine step that completes can do: fail, write a primitive's result, or run a BLIT. -/
theorem State.engineStep_cases {s t : State} (h : s.engineStep = .next t) :
    (∃ e, e ≠ .ok ∧ t = s.raiseError e) ∨
      (∃ i o, i ∈ [Instr.rev8, .mask1, .mask2, .lut2] ∧ decode s.cmd = .ok i ∧ t = State.complete { s with out0 := o }) ∨
      (∃ o o', decode s.cmd = .ok .xpose8 ∧ t = State.complete { s with out0 := o, out1 := o' }) ∨
      (∃ n fast, decode s.cmd = .ok (Depth.instr n fast) ∧ s.admission n = .run (s.blit n) ∧
        t = s.afterBlit n fast (s.blitMemory n) (n.takesFastPath (s.blit n))) := by
  have blit : ∀ n fast, decode s.cmd = .ok (Depth.instr n fast) → exec (Depth.instr n fast) s = .next t →
      (∃ e, e ≠ .ok ∧ t = s.raiseError e) ∨ (∃ n fast, decode s.cmd = .ok (Depth.instr n fast) ∧
        s.admission n = .run (s.blit n) ∧ t = s.afterBlit n fast (s.blitMemory n) (n.takesFastPath (s.blit n))) := by
    intro n fast hd hx
    rw [exec_blit] at hx
    rcases State.runBlit_next hx with ⟨e, he, rfl⟩ | ⟨b, hb, rfl⟩
    · refine .inl ⟨e, ?_, rfl⟩
      rintro rfl
      exact State.validate_ne_ok s n (State.admission_reject.mp he).2
    · obtain rfl := (State.admission_run.mp hb).2.2.2
      exact .inr ⟨n, fast, hd, hb, State.runBlit_run s n fast⟩
  unfold State.engineStep at h
  split at h
  · next i hi =>
    cases i with
    | blit1 fast =>
      rcases blit .one fast hi h with h | h
      · exact .inl h
      · exact .inr (.inr (.inr h))
    | blit2 fast =>
      rcases blit .two fast hi h with h | h
      · exact .inl h
      · exact .inr (.inr (.inr h))
    | rev8 => cases h; exact .inr (.inl ⟨.rev8, _, by simp, hi, rfl⟩)
    | xpose8 => cases h; exact .inr (.inr (.inl ⟨_, _, hi, rfl⟩))
    | mask1 =>
      simp only [exec, execMask1] at h
      split at h <;> cases h
      · exact .inl ⟨_, by simp, rfl⟩
      · exact .inr (.inl ⟨.mask1, _, by simp, hi, rfl⟩)
    | mask2 =>
      simp only [exec, execMask2] at h
      split at h <;> cases h
      · exact .inl ⟨_, by simp, rfl⟩
      · exact .inr (.inl ⟨.mask2, _, by simp, hi, rfl⟩)
    | lut2 => cases h; exact .inr (.inl ⟨.lut2, _, by simp, hi, rfl⟩)
  · cases h; exact .inl ⟨.illegalCommand, by simp, rfl⟩

/-! ## The step -/

/-- Who took a step that completed. -/
theorem step_cases {s t : State} (h : step s = .next t) :
    (s.fsm = .busy ∧ s.mover = .engine ∧ State.engineStep { s with turns := s.turns.tail } = .next t) ∨
      (s.mover = .host ∧ s.popTurn.hostStep = .next t) := by
  unfold step at h
  split at h
  · cases h
  · split at h
    · next hm =>
      have hb : s.fsm = .busy := by
        cases hf : s.fsm with
        | busy => rfl
        | idle => unfold State.mover at hm; rw [hf] at hm; cases hm
      have hp : s.popTurn = { s with turns := s.turns.tail } := by unfold State.popTurn; rw [hb]
      exact .inl ⟨hb, hm, hp ▸ h⟩
    · next hm => exact .inr ⟨hm, h⟩

/-- A step of the host: an event, or nothing. -/
theorem State.hostStep_cases {s t : State} (h : s.hostStep = .next t) :
    (s.events = [] ∧ t = s) ∨ (∃ e rest, s.events = e :: rest ∧ State.handle { s with events := rest } e = .next t) := by
  unfold State.hostStep at h
  split at h
  · next he => cases h; exact .inl ⟨he, rfl⟩
  · next e rest he => exact .inr ⟨e, rest, he, h⟩

/-! ## Events -/

/-- The ways a register write that is not refused can end (R17 to R27). -/
theorem State.writeOffset_cases (s : State) (off : Nat) (w : Word) :
    (s.fsm = .busy ∧ s.writeOffset off w = { s with status := s.status.overrun }) ∨
      (s.fsm = .idle ∧ ((∃ r, Reg.ofOffset off = some r ∧ s.writeOffset off w = s.setReg r w) ∨
        (Reg.ofOffset off = none ∧ s.writeOffset off w = s))) := by
  unfold State.writeOffset
  cases s.fsm with
  | busy => exact .inl ⟨rfl, rfl⟩
  | idle =>
    refine .inr ⟨rfl, ?_⟩
    cases h : Reg.ofOffset off with
    | none => exact .inr ⟨rfl, rfl⟩
    | some r => exact .inl ⟨r, rfl, rfl⟩

theorem State.regWrite_next {s t : State} {host : Nat} {addr w : Word} {bits : Nat}
    (h : s.regWrite host addr bits w = .next t) :
    ∃ off, s.windowOffset addr bits = some off ∧ t = s.portWrite host off w := by
  unfold State.regWrite at h
  split at h
  · cases h
  · next off ho => split at h <;> cases h; exact ⟨off, ho, rfl⟩

theorem State.regRead_next {s t : State} {host : Nat} {addr : Word} {bits : Nat}
    (h : s.regRead host addr bits = .next t) : ∃ off, s.windowOffset addr bits = some off ∧ t = s.portRead host addr off := by
  unfold State.regRead at h
  split at h
  · cases h
  · next off ho => cases h; exact ⟨off, ho, rfl⟩

theorem State.pollOnce_next {s t : State} {host : Nat} {addr mask value : Word}
    (h : s.pollOnce host addr mask value = .next t) :
    ∃ off es, t = { s.portRead host addr off with events := es } := by
  unfold State.pollOnce at h
  split at h
  · cases h
  · next off ho =>
    simp only at h
    split at h <;> cases h
    · exact ⟨off, s.events, rfl⟩
    · exact ⟨off, _, rfl⟩

theorem State.memRead_next {s t : State} {addr : Word} (h : s.memRead addr = .next t) :
    ∃ v, t = s.record addr v := by
  unfold State.memRead at h
  split at h
  · cases h
  · split at h <;> cases h; exact ⟨_, rfl⟩

theorem State.memWrite_next {s t : State} {addr : Word} {b : Byte} (h : s.memWrite addr b = .next t) :
    t = { s with mem := s.mem.writeAt addr 0 b } := by
  unfold State.memWrite at h
  split at h
  · cases h
  · split at h <;> cases h; rfl

/-- The reset input (R119, R120): every register cleared; memory as it was, or with the framebuffer of an abandoned
BLIT free. -/
theorem State.resetInput_next {s t : State} (h : s.resetInput = .next t) :
    (t = s.resetRegisters) ∨ (∃ n, s.runningBlit = some n ∧ t = (s.scramble (s.blit n)).resetRegisters) := by
  unfold State.resetInput at h
  split at h
  · cases h; exact .inl rfl
  · next n hn =>
    split at h
    · cases h; exact .inl rfl
    · split at h <;> cases h
      · exact .inl rfl
      · exact .inr ⟨n, hn, rfl⟩
    · cases h
    · next b hb =>
      cases h
      obtain rfl := (State.admission_run.mp hb).2.2.2
      exact .inr ⟨n, hn, rfl⟩

/-- What a BLIT command that is running is (R26, R59). -/
theorem State.runningBlit_eq_some {s : State} {n : Depth} (h : s.runningBlit = some n) :
    s.fsm = .busy ∧ ∃ fast, decode s.cmd = .ok (n.instr fast) := by
  unfold State.runningBlit at h
  split at h
  · next fast hb hd => cases h; exact ⟨hb, fast, hd⟩
  · next fast hb hd => cases h; exact ⟨hb, fast, hd⟩
  · cases h

theorem State.runningBlit_of {s : State} {n : Depth} {fast : Bool} (hb : s.fsm = .busy)
    (hd : decode s.cmd = .ok (n.instr fast)) : s.runningBlit = some n := by
  unfold State.runningBlit
  rw [hb, hd]
  cases n <;> rfl

/-- The framebuffer range that is in use while a BLIT runs (R39, R51). -/
theorem State.framebufferInUse_iff {s : State} {n : Depth} (h : s.runningBlit = some n) (a : Nat) :
    s.framebufferInUse a = true ↔ s.inDeclaredFramebuffer n a := by
  have hl : (s.layoutDepth n).bits =
      if s.dispCfg.depth = 1 ∨ s.dispCfg.depth = 2 then s.dispCfg.depth.toNat else n.bits := by
    have h1 : s.dispCfg.depth.toNat = 1 ↔ s.dispCfg.depth = 1 := by rw [← BitVec.toNat_inj]; rfl
    have h2 : s.dispCfg.depth.toNat = 2 ↔ s.dispCfg.depth = 2 := by rw [← BitVec.toNat_inj]; rfl
    unfold State.layoutDepth
    split
    · next e => simp [h1.mp e, Depth.bits]
    · next e => simp [h2.mp e, Depth.bits]
    · next e1 e2 => rw [if_neg (by rw [← h1, ← h2]; tauto)]
  unfold State.framebufferInUse State.declaredFbLen
  rw [h]
  simp only [State.blit_fbLen, hl]

/-- The image range that is in use while a BLIT runs (R38, R51). -/
theorem State.imageInUse_iff {s : State} {n : Depth} (h : s.runningBlit = some n) (a : Nat) :
    s.imageInUse a = true ↔ s.inDeclaredImage a := by
  unfold State.imageInUse State.declaredImageLen State.inDeclaredImage
  rw [h, State.headerRead_iff]
  simp only [Option.isSome_some, Bool.true_and]
  cases firstFailing s.entryChecks with
  | some e => simp [Config.hdrSize]
  | none =>
    rw [show s.header.dataSize = le32 s.mem s.srcAddr 0x0A from Memory.readLE_four _ _ _]
    exact ⟨fun h => .inr ⟨rfl, h⟩, fun h => h.elim (inRange_mono (Nat.le_add_right 22 _)) (·.2)⟩

/-- Everything an event that is served can do. -/
theorem State.handle_cases {s t : State} {e : Event} (h : State.handle s e = .next t) :
    (∃ host addr off es, t = { s.portRead host addr off with events := es }) ∨
      (∃ host addr w off, e = .regWrite host addr 32 w ∧ s.windowOffset addr 32 = some off ∧
        t = s.portWrite host off w) ∨
      (∃ addr v, t = s.record addr v) ∨
      (∃ addr b, e = .memWrite addr b ∧ t = { s with mem := s.mem.writeAt addr 0 b }) ∨
      (e = .reset ∧ (t = s.resetRegisters ∨
        ∃ n, s.runningBlit = some n ∧ t = (s.scramble (s.blit n)).resetRegisters)) := by
  cases e with
  | regRead host addr bits =>
    obtain ⟨off, -, rfl⟩ := State.regRead_next h
    exact .inl ⟨host, addr, off, s.events, rfl⟩
  | regWrite host addr bits value =>
    obtain ⟨off, ho, rfl⟩ := State.regWrite_next h
    obtain rfl : bits = 32 := by
      by_contra hne
      simp [State.windowOffset, hne] at ho
    exact .inr (.inl ⟨host, addr, value, off, rfl, ho, rfl⟩)
  | poll host addr mask value =>
    obtain ⟨off, es, rfl⟩ := State.pollOnce_next h
    exact .inl ⟨host, addr, off, es, rfl⟩
  | memRead addr =>
    obtain ⟨v, rfl⟩ := State.memRead_next h
    exact .inr (.inr (.inl ⟨addr, v, rfl⟩))
  | memWrite addr b => exact .inr (.inr (.inr (.inl ⟨addr, b, rfl, State.memWrite_next h⟩)))
  | reset => exact .inr (.inr (.inr (.inr ⟨rfl, State.resetInput_next h⟩)))

end Sys2Proof.Machine
end

