-- ==== Sys2Proof/Tests/Slice0.lean ====
section
/-! SUPPORT. The model's own tests. Every expected value comes from the spec: 95_test_vectors.md (its S, V and P
numbers are in the comments), the examples of the rules, or the encodings of 30_encoding.md. -/

namespace Sys2Proof.Tests

open Sys2Proof.Machine

set_option maxRecDepth 20000

/-! ## Helpers -/

def bytesAt (a : Nat) : List Byte → Memory → Memory
  | [], m => m
  | b :: bs, m => bytesAt (a + 1) bs (m.write a b)

def readBytes (m : Memory) (a : Nat) (n : Nat) : List Byte := (List.range n).map fun i => m.read (a + i)

/-- `H(magic, SW, SH, cm, cp, data_size)` of 95_test_vectors.md, dimensions and size below 256. -/
def imageHeader (magic : List Byte) (sw sh cm cp size : Byte) : List Byte :=
  magic ++ [sw, 0, sh, 0, cm, cp, size, 0, 0, 0] ++ List.replicate 8 0

def m1 : List Byte := [0x50, 0x31, 0x42, 0x4D]
def m2 : List Byte := [0x50, 0x32, 0x42, 0x4D]

/-- The state of a vector: image at 0x1000, framebuffer at 0x2000, the command `w` started. -/
def started (w : Word) (image : List Byte) (size : Word) (cfg dim : Word) (pre : List Byte) : State :=
  { State.reset with
    srcAddr := 0x1000, srcSize := size, fbAddr := 0x2000, dispCfg := DispCfg.ofWord cfg,
    dispDim := DispDim.ofWord dim, cmd := w, fsm := .busy,
    mem := bytesAt 0x1000 image (bytesAt 0x2000 pre []) }

def primitive (w in1 in0 : Word) : State :=
  { State.reset with in0 := in0, in1 := in1, out0 := 0x11111111, out1 := 0x22222222, cmd := w, fsm := .busy }

/-- A property of the state a step answers; false when it answers none. -/
def holdsNext (o : Host.Outcome State Fault Refusal) (p : State → Bool) : Bool :=
  match o with
  | .next t => p t
  | _ => false

/-- STATUS and the first `n` framebuffer bytes after the next step. -/
def shows (s : State) (status : Word) (fb : List Byte) : Bool :=
  holdsNext (step s) fun t => t.statusWord == status && readBytes t.mem 0x2000 fb.length == fb

/-- STATUS, OUT1 and OUT0 after the next step. -/
def gives (s : State) (status out1 out0 : Word) : Bool :=
  holdsNext (step s) fun t => t.statusWord == status && t.out1 == out1 && t.out0 == out0

/-! ## Well-formedness: one ill-formed term for each check of R59 -/

theorem test_rsv_refused : ({ op := 1, fast := false, rsv := 1 } : CommandFields).wellFormed = false := by decide
theorem test_op_zero_refused : ({ op := 0, fast := false, rsv := 0 } : CommandFields).wellFormed = false := by
  decide
theorem test_op_eight_refused : ({ op := 8, fast := false, rsv := 0 } : CommandFields).wellFormed = false := by
  decide
theorem test_fast_primitive_refused :
    ({ op := 3, fast := true, rsv := 0 } : CommandFields).wellFormed = false := by decide
theorem test_fast_blit_accepted : ({ op := 2, fast := true, rsv := 0 } : CommandFields).wellFormed = true := by
  decide

/-! ## Decoding (R58 bit patterns, R62, section 2 of 95_test_vectors.md) -/

theorem test_decode_blit1 : decode 0b00000000000000000000000000000001 = .ok (.blit1 false) := by rfl
theorem test_decode_blit1_fast : decode 0b00000000000000000000000000010001 = .ok (.blit1 true) := by rfl
theorem test_decode_blit2 : decode 0b00000000000000000000000000000010 = .ok (.blit2 false) := by rfl
theorem test_decode_blit2_fast : decode 0b00000000000000000000000000010010 = .ok (.blit2 true) := by rfl
theorem test_decode_rev8 : decode 0b00000000000000000000000000000011 = .ok .rev8 := by rfl
theorem test_decode_xpose8 : decode 0b00000000000000000000000000000100 = .ok .xpose8 := by rfl
theorem test_decode_mask1 : decode 0b00000000000000000000000000000101 = .ok .mask1 := by rfl
theorem test_decode_mask2 : decode 0b00000000000000000000000000000110 = .ok .mask2 := by rfl
theorem test_decode_lut2 : decode 0b00000000000000000000000000000111 = .ok .lut2 := by rfl
theorem test_decode_zero : decode 0x00000000 = .error .unassignedOp := by rfl
theorem test_decode_fast_rev8 : decode 0x00000013 = .error .fastOnPrimitive := by rfl
theorem test_decode_bit5 : decode 0x00000021 = .error .reservedBits := by rfl
theorem test_decode_bit31 : decode 0x80000001 = .error .reservedBits := by rfl
theorem test_decode_op8_fast : decode 0x00000018 = .error .unassignedOp := by rfl
theorem test_table_word : decodeTableWord 32 0x12 = some (.blit2 true) := by rfl

/-! ## The primitives (section 4 of 95_test_vectors.md); STATUS 0x2 is DONE, 0x102 DONE with ERR 1 -/

theorem test_rev8 : gives (primitive 3 0 0x136) 0x2 0x22222222 0x6C = true := by decide
theorem test_rev8_high_bits : gives (primitive 3 0 0xFFFFFF00) 0x2 0x22222222 0x0 = true := by decide
theorem test_xpose8 : gives (primitive 4 0x01234567 0x89ABCDEF) 0x2 0x0F335500 0x0F3355FF = true := by decide
theorem test_xpose8_one : gives (primitive 4 0 0x80) 0x2 0x01000000 0x0 = true := by decide
theorem test_mask1 : gives (primitive 5 0 3) 0x2 0x22222222 0xE0 = true := by decide
theorem test_mask1_range : gives (primitive 5 0 0x103) 0x102 0x22222222 0x11111111 = true := by decide
theorem test_mask2 : gives (primitive 6 0 3) 0x2 0x22222222 0xFC = true := by decide
theorem test_mask2_range : gives (primitive 6 0 5) 0x102 0x22222222 0x11111111 = true := by decide
theorem test_lut2 : gives (primitive 7 0 0xF0) 0x2 0x22222222 0x55 = true := by decide
theorem test_lut2_high_bits : gives (primitive 7 0 0x123) 0x2 0x22222222 0xF2 = true := by decide
theorem test_illegal : gives (primitive 0x13 0 0x12) 0x902 0x22222222 0x11111111 = true := by decide

/-- The table of R30, a row per plane1 nibble. -/
def tableOfR30 : List (List Byte) :=
  [[0xFF, 0xFE, 0xFB, 0xFA, 0xEF, 0xEE, 0xEB, 0xEA, 0xBF, 0xBE, 0xBB, 0xBA, 0xAF, 0xAE, 0xAB, 0xAA]] ++
  [[0xFD, 0xFC, 0xF9, 0xF8, 0xED, 0xEC, 0xE9, 0xE8, 0xBD, 0xBC, 0xB9, 0xB8, 0xAD, 0xAC, 0xA9, 0xA8]] ++
  [[0xF7, 0xF6, 0xF3, 0xF2, 0xE7, 0xE6, 0xE3, 0xE2, 0xB7, 0xB6, 0xB3, 0xB2, 0xA7, 0xA6, 0xA3, 0xA2]] ++
  [[0xF5, 0xF4, 0xF1, 0xF0, 0xE5, 0xE4, 0xE1, 0xE0, 0xB5, 0xB4, 0xB1, 0xB0, 0xA5, 0xA4, 0xA1, 0xA0]] ++
  [[0xDF, 0xDE, 0xDB, 0xDA, 0xCF, 0xCE, 0xCB, 0xCA, 0x9F, 0x9E, 0x9B, 0x9A, 0x8F, 0x8E, 0x8B, 0x8A]] ++
  [[0xDD, 0xDC, 0xD9, 0xD8, 0xCD, 0xCC, 0xC9, 0xC8, 0x9D, 0x9C, 0x99, 0x98, 0x8D, 0x8C, 0x89, 0x88]] ++
  [[0xD7, 0xD6, 0xD3, 0xD2, 0xC7, 0xC6, 0xC3, 0xC2, 0x97, 0x96, 0x93, 0x92, 0x87, 0x86, 0x83, 0x82]] ++
  [[0xD5, 0xD4, 0xD1, 0xD0, 0xC5, 0xC4, 0xC1, 0xC0, 0x95, 0x94, 0x91, 0x90, 0x85, 0x84, 0x81, 0x80]] ++
  [[0x7F, 0x7E, 0x7B, 0x7A, 0x6F, 0x6E, 0x6B, 0x6A, 0x3F, 0x3E, 0x3B, 0x3A, 0x2F, 0x2E, 0x2B, 0x2A]] ++
  [[0x7D, 0x7C, 0x79, 0x78, 0x6D, 0x6C, 0x69, 0x68, 0x3D, 0x3C, 0x39, 0x38, 0x2D, 0x2C, 0x29, 0x28]] ++
  [[0x77, 0x76, 0x73, 0x72, 0x67, 0x66, 0x63, 0x62, 0x37, 0x36, 0x33, 0x32, 0x27, 0x26, 0x23, 0x22]] ++
  [[0x75, 0x74, 0x71, 0x70, 0x65, 0x64, 0x61, 0x60, 0x35, 0x34, 0x31, 0x30, 0x25, 0x24, 0x21, 0x20]] ++
  [[0x5F, 0x5E, 0x5B, 0x5A, 0x4F, 0x4E, 0x4B, 0x4A, 0x1F, 0x1E, 0x1B, 0x1A, 0x0F, 0x0E, 0x0B, 0x0A]] ++
  [[0x5D, 0x5C, 0x59, 0x58, 0x4D, 0x4C, 0x49, 0x48, 0x1D, 0x1C, 0x19, 0x18, 0x0D, 0x0C, 0x09, 0x08]] ++
  [[0x57, 0x56, 0x53, 0x52, 0x47, 0x46, 0x43, 0x42, 0x17, 0x16, 0x13, 0x12, 0x07, 0x06, 0x03, 0x02]] ++
  [[0x55, 0x54, 0x51, 0x50, 0x45, 0x44, 0x41, 0x40, 0x15, 0x14, 0x11, 0x10, 0x05, 0x04, 0x01, 0x00]]

/-- Every entry of R30's table is what R29's formula gives. -/
theorem test_lut_table :
    (List.range 16).all (fun r => (List.range 16).all fun c =>
      lut (BitVec.ofNat 8 (16 * r + c)) == (tableOfR30.getD r []).getD c 0) = true := by decide +kernel

/-! ## BLIT1 and BLIT2 (sections 1, 6 and 7 of 95_test_vectors.md) -/

/-- One vector at each rotation: (DISP_CFG, DISP_DIM, STATUS after, framebuffer after), image and prior bytes given. -/
def atRotations (w : Word) (image : List Byte) (size : Word) (pre : List Byte)
    (rows : List (Word × Word × Word × List Byte)) : Bool :=
  rows.all fun (cfg, dim, status, fb) => shows (started w image size cfg dim pre) status fb

def v1aImage : List Byte := imageHeader m1 3 2 0 0 2 ++ [0x80, 0xC0]
def v2aImage : List Byte := imageHeader m2 3 2 0 0 6 ++ [0x80, 0x40, 0x80, 0x80, 0xC0, 0x40]
def s2Image : List Byte := imageHeader m1 4 4 0 0 4 ++ [0xF0, 0xF0, 0xF0, 0xF0]
def s5Image : List Byte := imageHeader m1 10 2 0 0 4 ++ [0xFF, 0xFF, 0xA5, 0x7F]

/-- V1-a: the four 1bpp converters after a clear. -/
theorem test_blit1_rotations :
    atRotations 0x1 v1aImage 24 (List.replicate 4 0xFF)
      [ (0x001, 0x00030004, 0x16, [0x80, 0xC0, 0x00, 0xFF]),
        (0x101, 0x00030004, 0x16, [0x00, 0x00, 0x40, 0xC0]),
        (0x201, 0x00030004, 0x16, [0x00, 0x30, 0x10, 0xFF]),
        (0x301, 0x00030004, 0x16, [0x60, 0x40, 0x00, 0x00]) ] = true := by decide

/-- S5: the fast path with padding, update kind fast. -/
theorem test_blit1_fast_path :
    shows (started 0x11 s5Image 26 0x1 0x0002000A (List.replicate 4 0x33)) 0x2E [0xFF, 0xC0, 0xA5, 0x40] = true := by
  decide

/-- V2-a: the four 2bpp converters after a clear. -/
theorem test_blit2_rotations :
    atRotations 0x2 v2aImage 28 (List.replicate 4 0x00)
      [ (0x002, 0x00040004, 0x16, [0x27, 0xCB, 0xFF, 0xFF]),
        (0x102, 0x00040004, 0x16, [0xFF, 0x6F, 0x8F, 0x3F]),
        (0x202, 0x00040004, 0x16, [0xFF, 0xFF, 0xE3, 0xD8]),
        (0x302, 0x00040004, 0x16, [0xFC, 0xF2, 0xF9, 0xFF]) ] = true := by decide

/-- V2-c: a partial row group and a partial last byte, 90° and 270°. -/
theorem test_blit2_partial_groups :
    atRotations 0x12 (imageHeader m2 1 10 0 0 4 ++ [0x3C, 0x80, 0x5A, 0x40]) 26 (List.replicate 3 0x00)
      [ (0x102, 0x000C0001, 0x1E, [0xE4, 0x1B, 0x6F]), (0x302, 0x000C0001, 0x1E, [0xF9, 0xE4, 0x1B]) ] = true := by
  decide

/-! ## The port and the reset input (section 3 of 95_test_vectors.md) -/

def act (s : State) (es : List Event) : State := { s with events := es }

/-- A command that is running and that the host holds off for one step. -/
def held (s : State) (es : List Event) : State := { s with events := es, turns := [.host] }

/-- STATUS = 0x742 written with 0x42 becomes 0x700. -/
theorem test_ack :
    holdsNext (step (act { State.reset with
        status := { done := true, upd := false, updFast := false, clr := false, fastpath := false, ovr := true,
                    err := .sizeMismatch } } [ack Config.testInstance]))
      (fun t => t.statusWord == 0x700) = true := by decide

/-- A write while busy is dropped and sets OVR. -/
theorem test_write_while_busy :
    holdsNext (step (held (primitive 3 0 0x12) [wr Config.testInstance .in0 1]))
      (fun t => t.in0 == 0x12 && t.statusWord == 0x41) = true := by decide

/-- Every register reads 0 after the reset input. -/
theorem test_reset_input :
    holdsNext (step (act { primitive 3 0 0x12 with fsm := .idle } [.reset]))
      (fun t => (List.range 64).all fun i => t.readOffset (4 * i) == 0) = true := by decide

/-! ## Witnesses: a concrete state and operands that meet the hypotheses of each obligation, by clause -/

theorem holdsNext_iff {o : Host.Outcome State Fault Refusal} {p : State → Bool} :
    holdsNext o p = true ↔ ∃ t, o = .next t ∧ p t = true := by
  cases o <;> simp [holdsNext]

def rev8Busy : State := primitive 3 0 0x12
def cfg0 : Config := Config.testInstance

/-- An idle state with OVR and ERR 7 set and results left by a primitive. -/
def afterOverrun : State :=
  { State.reset with
    out0 := 0x6C, status := { done := true, upd := false, updFast := false, clr := false, fastpath := false,
                              ovr := true, err := .sizeMismatch } }

/-- 95_test_vectors.md section 3, "next command start": ERR 7 and DONE are cleared, OVR is kept; REV8 then ends with
ERR 0. -/
theorem test_start_clears_err :
    holdsNext (step (act afterOverrun [command cfg0 .rev8])) (fun t => t.statusWord == 0x41 &&
      holdsNext (step t) fun u => u.statusWord == 0x42) = true := by decide

theorem witness_step_runs_the_command :
    rev8Busy.validInstance ∧ rev8Busy.fsm = .busy ∧ rev8Busy.turns.head? ≠ some .host ∧
      decode rev8Busy.cmd = .ok .rev8 := by decide

theorem witness_step_handles_events :
    (act State.reset [.reset]).validInstance ∧ (act State.reset [.reset]).fsm = .idle ∧
      (act State.reset [.reset]).events = .reset :: [] ∧ State.reset.events = [] ∧
      (held rev8Busy [.reset]).validInstance ∧ (held rev8Busy [.reset]).fsm = .busy ∧
      (held rev8Busy [.reset]).turns = .host :: [] ∧ (held rev8Busy []).events = [] := by decide

theorem witness_equal_magics :
    let s := { State.reset with config := { cfg0 with magic2bpp := cfg0.magic1bpp } }
    s.config.magic1bpp = s.config.magic2bpp := by decide

theorem witness_illegal_words :
    [0x00000020#32, 0x80000001, 0x00000000, 0x00000008, 0x0000000F, 0x00000013, 0x00000017, 0x00000010].all
      (fun w => !(CommandFields.ofWord w).wellFormed) = true ∧
    [0x00000001#32, 0x00000011, 0x00000002, 0x00000012, 0x00000003, 0x00000007].all
      (fun w => (CommandFields.ofWord w).wellFormed) = true := by decide

/-- Two host turns: the states before and after the first are both busy and the host's. -/
theorem witness_host_holds_the_engine :
    let s := { rev8Busy with turns := [.host, .host] }
    ∀ k, k ≤ 1 → ∃ u, Host.Core.run Sys2Proof.core k s = .next u ∧ u.fsm = .busy ∧ u.mover = .host := by
  intro s k hk
  obtain rfl | rfl : k = 0 ∨ k = 1 := by omega
  · exact ⟨s, rfl, rfl, rfl⟩
  · exact ⟨{ s with turns := [.host] }, rfl, rfl, rfl⟩

theorem witness_engine_step_completes : ∃ t, rev8Busy.engineStep = .next t := ⟨_, rfl⟩

theorem witness_overrun_cleared :
    afterOverrun.status.ovr = true ∧
    holdsNext (step (act afterOverrun [wr cfg0 .status 0x40])) (fun t => !t.status.ovr) = true ∧
    holdsNext (step (act afterOverrun [.reset])) (fun t => !t.status.ovr) = true := by decide

/-- Every parameter register: the first and the last of the window's parameter offsets among them; a port that nobody
owns and one that the same host owns. -/
theorem witness_parameter_write :
    State.reset.fsm = .idle ∧
    [Reg.srcAddr, .srcSize, .fbAddr, .dispCfg, .dispDim, .in0, .in1].all (fun r => r.isParameter &&
      State.reset.windowOffset (r.addr cfg0) 32 == some r.offset) = true ∧
    (∀ o, State.reset.portOwner = some o → o.host = 5) ∧
    (∀ o, ({ State.reset with portOwner := some { host := 5, started := true } } : State).portOwner = some o →
      o.host = 5) := by
  refine ⟨rfl, by decide, fun o h => (by cases h), fun o h => ?_⟩
  cases h; rfl

theorem witness_reserved_offsets :
    (0x2C ≤ 0x2C ∧ 0x2C ≤ 0xFC) ∧ (0x2C ≤ 0xFC ∧ 0xFC ≤ 0xFC) ∧ State.reset.fsm = .idle := by decide

theorem witness_results_written :
    holdsNext (step rev8Busy) (fun t => t.out0 != rev8Busy.out0) = true ∧
    holdsNext (step (primitive 4 0x01234567 0x89ABCDEF)) (fun t => t.out1 != 0x22222222) = true ∧
    holdsNext (step (act afterOverrun [.reset])) (fun t => t.out0 != afterOverrun.out0) = true := by decide

theorem witness_command_write :
    State.reset.fsm = .idle ∧ State.reset.windowOffset (Reg.addr cfg0 .cmd) 32 = some 0x00 := by decide

/-- Busy writes: a register, the read-only OUT1, a reserved offset; no owner, so no other host. -/
theorem witness_busy_write :
    rev8Busy.fsm = .busy ∧ rev8Busy.windowOffset 0x1C 32 = some 0x1C ∧ rev8Busy.windowOffset 0x28 32 = some 0x28 ∧
      rev8Busy.windowOffset 0xFC 32 = some 0xFC ∧ rev8Busy.portOwner = none := by decide

/-- Accesses of each refused shape (8 and 64 bits wide, misaligned, one past the window and below it), and the last
offset of the window. -/
theorem witness_misshapen_accesses :
    State.reset.windowOffset 0 8 = none ∧ State.reset.windowOffset 0 64 = none ∧
      State.reset.windowOffset 2 32 = none ∧ State.reset.windowOffset 0x100 32 = none ∧
      State.reset.windowOffset 0xFFFFFFFC 32 = none ∧ State.reset.windowOffset 0xFC 32 = some 0xFC := by decide

/-- Host 1 owns the port: host 0's parameter write is refused; host 1, its command over, reads each of the three
results. -/
theorem witness_hosts :
    let s := { State.reset with portOwner := some { host := 1, started := true } }
    s.windowOffset (Reg.addr cfg0 .in0) 32 = some Reg.in0.offset ∧ Reg.in0.isParameter = true ∧ (1 : Nat) ≠ 0 ∧
      s.fsm = .idle ∧
      [Reg.status, .out0, .out1].all (fun r => s.windowOffset (r.addr cfg0) 32 == some r.offset) = true := by decide

/-- `wait` while busy is not over; idle it is. -/
theorem witness_poll :
    State.reset.windowOffset (Reg.addr cfg0 .status) 32 = some 0x04 ∧
      State.reset.readOffset 0x04 &&& 0x1 = 0x0 ∧ rev8Busy.readOffset 0x04 &&& 0x1 ≠ 0x0 := by decide

/-- The mask counts on both sides of both limits, and 0. -/
theorem witness_mask_counts :
    (primitive 5 0 0).in0.toNat ≤ 8 ∧ (primitive 5 0 8).in0.toNat ≤ 8 ∧ 8 < (primitive 5 0 9).in0.toNat ∧
      (primitive 6 0 4).in0.toNat ≤ 4 ∧ 4 < (primitive 6 0 5).in0.toNat := by decide

/-! ### BLIT -/

/-- The base case of section 5, SRC_SIZE and DISP_CFG given. -/
def base1 (image : List Byte) (size cfg dim : Word) : State := started 0x1 image size cfg dim (List.replicate 8 0x11)
def base2 (image : List Byte) (size cfg dim : Word) : State := started 0x2 image size cfg dim (List.replicate 8 0x11)

/-- Each of the ten checks of R66 to R75 fails first in some state whose header, when read, is plain memory. The values
stand at the edge of each check where it has one. -/
theorem witness_failing_checks :
    [ ({ base1 s2Image 26 0x1 0x00080008 with srcAddr := 0 }, Depth.one, ErrorCode.invalidArgument),
      ({ base1 s2Image 26 0x1 0x00080008 with fbAddr := 0 }, .one, .invalidArgument),
      (base1 s2Image 21 0x1 0x00080008, .one, .malformedHeader),
      (base1 (imageHeader m2 4 4 0 0 4) 26 0x1 0x00080008, .one, .malformedHeader),
      (base1 (imageHeader m1 4 4 1 0 4) 26 0x1 0x00080008, .one, .unsupportedFormat),
      (base1 (imageHeader m1 4 4 0 2 4) 26 0x1 0x00080008, .one, .unsupportedFormat),
      (base1 s2Image 26 0x2 0x00080008, .one, .depthMismatch),
      (base1 s2Image 26 0x401 0x00080008, .one, .unsupportedRotation),
      (base1 (imageHeader m1 0 4 0 0 4) 26 0x1 0x00080008, .one, .invalidDimensions),
      (base1 s2Image 26 0x1 0x00080000, .one, .invalidDimensions),
      (base1 (imageHeader m1 4 4 0 0 5) 27 0x1 0x00080008, .one, .sizeMismatch),
      (base1 s2Image 25 0x1 0x00080008, .one, .truncatedBuffer),
      (base2 v2aImage 28 0x002 0x00040006, .two, .invalidDimensions),
      (base2 v2aImage 28 0x102 0x00060004, .two, .invalidDimensions) ].all
      (fun (s, n, e) => s.firstError n == some e && s.plain s.srcAddr 22) = true := by decide

/-- An engine step that ends with an error, from a state whose ERR is 0. -/
theorem witness_error_step :
    (base1 s2Image 25 0x1 0x00080008).status.err = .ok ∧
      holdsNext (base1 s2Image 25 0x1 0x00080008).engineStep (fun t => t.status.err != .ok) = true := by decide

def ready1 : State := base1 s2Image 26 0x1 0x00080008
def ready1Full : State := started 0x1 s5Image 26 0x1 0x0002000A (List.replicate 4 0x33)
def ready1Covers : State := started 0x1 v1aImage 24 0x101 0x00020003 (List.replicate 3 0x5A)
def ready2 : State := base2 v2aImage 28 0x002 0x00040004
def ready2Deg90 : State := base2 v2aImage 28 0x102 0x00040004

/-- BLITs that run: one that clears, the fast path, one that covers without it; BLIT2 at two rotations. -/
theorem witness_ready :
    (ready1.mem.wf ∧ ready1.blitReady .one) ∧ (ready1Full.mem.wf ∧ ready1Full.blitReady .one) ∧
      (ready1Covers.mem.wf ∧ ready1Covers.blitReady .one) ∧ (ready2.mem.wf ∧ ready2.blitReady .two) ∧
      ready2Deg90.blitReady .two := by decide

/-- The fast path's condition, and the two of the clear, hold and fail among these. -/
theorem witness_paths :
    (ready1Full.blit .one).isFullscreen = true ∧ (ready1Covers.blit .one).isFullscreen = false ∧
      (ready1.blit .one).covers = false ∧ (ready1Covers.blit .one).covers = true := by decide

/-- Pixels of the copy region at its corners. -/
theorem witness_pixels :
    0 < (ready1.blit .one).copyW ∧ 0 < (ready1.blit .one).copyH ∧ 3 < (ready1.blit .one).copyW ∧
      3 < (ready1.blit .one).copyH ∧ 2 < (ready2.blit .two).copyW ∧ 1 < (ready2.blit .two).copyH := by decide

/-- Framebuffer slots that hold no pixel of the copy region: after a clear a bit of the last row and a field of the last
byte; a padding bit of the fast path; and, where nothing is cleared and there is no fast path, a padding bit that stays
(its old value here 0x5A's bit 1, which is 1). -/
theorem witness_uncovered_slots :
    (7 < (ready1.blit .one).fbLen ∧
      ∀ x, x < (ready1.blit .one).copyW → ∀ y, y < (ready1.blit .one).copyH →
        ¬((ready1.blit .one).dstOff1 ((ready1.blit .one).toNative x y).1 ((ready1.blit .one).toNative x y).2 = 7 ∧
          dstBit1 ((ready1.blit .one).toNative x y).1 = 0)) ∧
    (1 < (ready1Full.blit .one).fbLen ∧
      ∀ x, x < (ready1Full.blit .one).copyW → ∀ y, y < (ready1Full.blit .one).copyH →
        ¬((ready1Full.blit .one).dstOff1 ((ready1Full.blit .one).toNative x y).1
            ((ready1Full.blit .one).toNative x y).2 = 1 ∧
          dstBit1 ((ready1Full.blit .one).toNative x y).1 = 5)) ∧
    ((0 < (ready1Covers.blit .one).fbLen ∧ (ready1Covers.mem.readAt 0x2000 0).getLsbD 1 = true) ∧
      ∀ x, x < (ready1Covers.blit .one).copyW → ∀ y, y < (ready1Covers.blit .one).copyH →
        ¬((ready1Covers.blit .one).dstOff1 ((ready1Covers.blit .one).toNative x y).1
            ((ready1Covers.blit .one).toNative x y).2 = 0 ∧
          dstBit1 ((ready1Covers.blit .one).toNative x y).1 = 1)) ∧
    (3 < (ready2.blit .two).fbLen ∧
      ∀ x, x < (ready2.blit .two).copyW → ∀ y, y < (ready2.blit .two).copyH →
        ¬((ready2.blit .two).dstOff2 ((ready2.blit .two).toNative x y).1 ((ready2.blit .two).toNative x y).2 = 3 ∧
          dstSlot2 ((ready2.blit .two).toNative x y).1 = 3)) := by decide

/-- The logical rectangle has corners, and native pixels to hit. -/
theorem witness_transform :
    7 < (ready1.blit .one).lw ∧ 7 < (ready1.blit .one).lh ∧ 7 < (ready1.blit .one).nw ∧ 7 < (ready1.blit .one).nh := by
  decide

/-- A 270° blit with a native width that is a multiple of 4. -/
theorem witness_group_reversal :
    let b := (base2 v2aImage 28 0x302 0x00040004).blit .two
    b.rot = .deg270 ∧ b.nw % 4 = 0 := by decide

/-- The same image and display at 0° and 180°. -/
theorem witness_rotations :
    let s' := { ready1 with dispCfg := { ready1.dispCfg with rot := 2 } }
    ready1.mem.wf ∧ ready1.blitReady .one ∧ s'.blitReady .one ∧
      ready2.blitReady .two ∧ ({ ready2 with dispCfg := { ready2.dispCfg with rot := 3 } } : State).blitReady .two := by
  decide

theorem witness_second_blit : ∃ t, exec (Depth.instr .one false) ready1 = .next t :=
  (holdsNext_iff (p := fun _ => true)).mp (by decide) |>.imp fun _ h => h.1

/-- Two memories that agree on everything a BLIT may read and differ at 0x3000; and, for BLIT2, in the framebuffer. -/
theorem witness_other_memory :
    let m := ready1.mem.write 0x3000 0x77
    let m' := ready2.mem.write 0x2000 0x77
    m.wf ∧ m ≠ ready1.mem ∧ (∀ a, a < 2 ^ 32 → ready1.inImage .one a ∨ ready1.inFramebuffer .one a →
      m.read a = ready1.mem.read a) ∧
    m'.wf ∧ m' ≠ ready2.mem ∧ (∀ a, a < 2 ^ 32 → ready2.inImage .two a → m'.read a = ready2.mem.read a) := by
  refine ⟨by decide, by decide, fun a _ h => ?_, by decide, by decide, fun a _ h => ?_⟩
  · have h1 : a ≠ 0x3000 := by rintro rfl; revert h; decide
    have : ready1.mem.wf := by decide
    rw [Memory.read_write _ this, if_neg (Ne.symm h1)]
  · have h1 : a ≠ 0x2000 := by rintro rfl; revert h; decide
    have : ready2.mem.wf := by decide
    rw [Memory.read_write _ this, if_neg (Ne.symm h1)]

/-- A header that is read and fails, and one that is never read. -/
theorem witness_header_read :
    (base1 s2Image 25 0x1 0x00080008).headerRead ∧ ¬(base1 s2Image 21 0x1 0x00080008).headerRead := by decide

/-- The framebuffer at the last header byte, and at the last payload byte. -/
theorem witness_overlap :
    [0x1015#32, 0x1019].all (fun fb =>
      let s := { ready1 with fbAddr := fb }
      s.firstError .one == none && s.plain s.srcAddr (s.blit .one).imageLen && s.plain s.fbAddr (s.blit .one).fbLen &&
        inRange s.srcAddr (s.blit .one).imageLen fb.toNat && inRange s.fbAddr (s.blit .one).fbLen fb.toNat) = true := by
  decide

def withRegions (s : State) (rs : List Region) : State := { s with config := { s.config with regions := rs } }

/-- The byte at `silent` does not respond, the one at `active` has side effects. -/
def mixed (s : State) (silent active : Word) : State :=
  withRegions s [{ base := silent, len := 1, kind := .noResponse }, { base := active, len := 1, kind := .sideEffects }]

theorem meetsRegion_of {s : State} {k : RegionKind} {base : Word} {len : Nat} (h : s.touches k base len = true) :
    s.meetsRegion k base len := by
  simpa only [State.touches, List.any_eq_true, Bool.and_eq_true, beq_iff_eq, rangesMeet_iff, State.meetsRegion] using h

theorem not_meetsRegion_of {s : State} {k : RegionKind} {base : Word} {len : Nat} (h : s.touches k base len = false) :
    ¬s.meetsRegion k base len := fun hm => by
  have : s.touches k base len = true := by
    simpa only [State.touches, List.any_eq_true, Bool.and_eq_true, beq_iff_eq, rangesMeet_iff, State.meetsRegion] using hm
  rw [h] at this; cases this

/-- On a platform with both kinds: the header's last byte of one kind and then of the other; the payload's; the
framebuffer's. Where both kinds are in one range, the first kind decides. -/
theorem witness_off_plain_memory :
    (ready1.headerRead ∧ (mixed ready1 0x1015 0x1000).meetsRegion .noResponse 0x1000 22) ∧
    (¬(mixed ready1 0x2007 0x1015).meetsRegion .noResponse 0x1000 22 ∧
      (mixed ready1 0x2007 0x1015).meetsRegion .sideEffects 0x1000 22) ∧
    ((mixed ready1 0x1019 0x2007).firstError .one = none ∧
      ¬(mixed ready1 0x1019 0x2007).meetsRegion .noResponse 0x1000 22 ∧
      ¬(mixed ready1 0x1019 0x2007).meetsRegion .sideEffects 0x1000 22 ∧
      (mixed ready1 0x1019 0x2007).meetsRegion .noResponse 0x1000 ((mixed ready1 0x1019 0x2007).blit .one).imageLen) ∧
    (¬(mixed ready1 0x2007 0x1019).meetsRegion .noResponse 0x1000 ((mixed ready1 0x2007 0x1019).blit .one).imageLen ∧
      (mixed ready1 0x2007 0x1019).meetsRegion .sideEffects 0x1000
        ((mixed ready1 0x2007 0x1019).blit .one).imageLen) ∧
    ((mixed ready1 0x2007 0x3000).firstError .one = none ∧
      ¬(mixed ready1 0x2007 0x3000).meetsRegion .noResponse 0x1000 ((mixed ready1 0x2007 0x3000).blit .one).imageLen ∧
      ¬(mixed ready1 0x2007 0x3000).meetsRegion .sideEffects 0x1000 ((mixed ready1 0x2007 0x3000).blit .one).imageLen ∧
      (mixed ready1 0x2007 0x3000).meetsRegion .noResponse 0x2000 ((mixed ready1 0x2007 0x3000).blit .one).fbLen) ∧
    (¬(mixed ready1 0x3000 0x2007).meetsRegion .noResponse 0x2000 ((mixed ready1 0x3000 0x2007).blit .one).fbLen ∧
      (mixed ready1 0x3000 0x2007).meetsRegion .sideEffects 0x2000 ((mixed ready1 0x3000 0x2007).blit .one).fbLen) := by
  refine ⟨⟨?_, meetsRegion_of ?_⟩, ⟨not_meetsRegion_of ?_, meetsRegion_of ?_⟩,
    ⟨?_, not_meetsRegion_of ?_, not_meetsRegion_of ?_, meetsRegion_of ?_⟩, ⟨not_meetsRegion_of ?_, meetsRegion_of ?_⟩,
    ⟨?_, not_meetsRegion_of ?_, not_meetsRegion_of ?_, meetsRegion_of ?_⟩, not_meetsRegion_of ?_, meetsRegion_of ?_⟩ <;>
    decide

/-- While a BLIT1 that will run is BUSY: the framebuffer's ends, the image's ends, and a byte of neither. -/
theorem witness_race :
    ready1.fsm = .busy ∧ decode ready1.cmd = .ok (Depth.instr .one false) ∧ ready1.blitReady .one ∧
      ready1.plain 0x2000 1 = true ∧ ready1.inDeclaredFramebuffer .one 0x2000 ∧
      ready1.inDeclaredFramebuffer .one 0x2007 ∧ ready1.inDeclaredImage 0x1000 ∧ ready1.inDeclaredImage 0x1019 ∧
      ¬ready1.inDeclaredFramebuffer .one 0x2008 ∧ ¬ready1.inDeclaredImage 0x101A ∧
      ¬ready1.inDeclaredImage 0x2008 := by decide

/-- The same for BLITs that will fail: a truncated buffer (header, payload and framebuffer in use), a SRC_SIZE of 21
(header and framebuffer, no payload), a 2bpp display under BLIT1 (R39's length for DEPTH 2: 16 bytes), a DEPTH of 0. -/
theorem witness_race_of_failing_blits :
    (let s := base1 s2Image 25 0x1 0x00080008
     s.firstError .one = some .truncatedBuffer ∧ s.inDeclaredFramebuffer .one 0x2007 ∧ s.inDeclaredImage 0x1019 ∧
       ¬s.inDeclaredImage 0x101A) ∧
    (let s := base1 s2Image 21 0x1 0x00080008
     s.firstError .one = some .malformedHeader ∧ s.inDeclaredFramebuffer .one 0x2000 ∧ s.inDeclaredImage 0x1015 ∧
       ¬s.inDeclaredImage 0x1016) ∧
    (let s := base1 s2Image 26 0x2 0x00080008
     s.firstError .one = some .depthMismatch ∧ s.inDeclaredFramebuffer .one 0x200F ∧
       ¬s.inDeclaredFramebuffer .one 0x2010) ∧
    (let s := base1 s2Image 26 0x0 0x00080008
     s.firstError .one = some .depthMismatch ∧ s.inDeclaredFramebuffer .one 0x2007 ∧
       ¬s.inDeclaredFramebuffer .one 0x2008) := by decide

/-- The payload's last byte is refused to another agent's write while a BLIT that will fail is BUSY, and served one past
it; a framebuffer byte is refused to its read (R51). -/
theorem test_failing_blit_owns_its_buffers :
    let s := base1 s2Image 25 0x1 0x00080008
    step (held s [.memWrite 0x1019 0]) = .refused .bufferRace ∧
      holdsNext (step (held s [.memWrite 0x101A 5])) (fun t => t.mem.read 0x101A == 5) = true ∧
      step (held s [.memRead 0x2007]) = .refused .bufferRace := by
  refine ⟨rfl, by decide, rfl⟩

/-- Every legal rotation code, of either format. -/
theorem witness_geometry :
    ready1.dispCfg.rot.toNat = 0 ∧ ready1Covers.dispCfg.rot.toNat = 1 ∧ ready2Deg90.dispCfg.rot.toNat = 1 ∧
      (base2 v2aImage 28 0x302 0x00040004).dispCfg.rot.toNat = 3 := by decide

theorem witness_update :
    holdsNext (step ready1) (fun t => t.updates != ready1.updates) = true ∧ ready1.running ∧
      holdsNext ready1.engineStep (fun t => t.status.upd) = true ∧ rev8Busy.running := by decide

/-- Memory changes in an engine step and by another agent's write. -/
theorem witness_memory_changes :
    ready1.mem.wf ∧ holdsNext (step ready1) (fun t => t.mem.read 0x2000 != ready1.mem.read 0x2000) = true ∧
      holdsNext (step (act State.reset [.memWrite 0x40 0x55]))
        (fun t => t.mem.read 0x40 != State.reset.mem.read 0x40) = true := by decide

/-- A reset of an idle machine, of a running primitive, of a running BLIT that would fail. -/
theorem witness_reset_input :
    (∃ t, State.handle State.reset .reset = .next t) ∧ State.reset.runningBlit = none ∧
      rev8Busy.runningBlit = none ∧
      (let s := base1 s2Image 25 0x1 0x00080008
       s.mem.wf ∧ s.fsm = .busy ∧ decode s.cmd = .ok (Depth.instr .one false) ∧ s.plain s.srcAddr 22 = true ∧
         s.firstError .one = some .truncatedBuffer) := by
  refine ⟨⟨_, rfl⟩, ?_⟩
  decide

/-- The invariant, before an engine step and before a host step. -/
theorem witness_invariant :
    ready1.Inv ∧ holdsNext (step ready1) (fun _ => true) = true ∧ (act afterOverrun [.reset]).Inv ∧
      holdsNext (step (act afterOverrun [.reset])) (fun _ => true) = true := by decide

/-- A dropped write while a BLIT is busy, and another agent's write outside its buffers. -/
theorem witness_results_hold :
    (let s := held ready1 [wr cfg0 .in0 7]
     s.fsm = .busy ∧ s.mover = .host ∧ s.events.head? ≠ some .reset ∧
       holdsNext (step s) (fun t => t.status.ovr && t.in0 == s.in0) = true) ∧
    (let s := held ready1 [.memWrite 0x2008 0x55]
     s.fsm = .busy ∧ s.mover = .host ∧ s.events.head? ≠ some .reset ∧ s.mem.wf ∧
       decode s.cmd = .ok (Depth.instr .one false) ∧ s.inDeclaredFramebuffer .one 0x2007 ∧ s.inDeclaredImage 0x1000 ∧
       holdsNext (step s) (fun t => t.mem.read 0x2008 == 0x55) = true) := by decide

end Sys2Proof.Tests
end

section
/-! The scope family (00_scope.md): which instantiations the machine runs at all (R7). -/

namespace Sys2Proof.Machine

/-- Equal magics stop the instantiation, and nothing else does (R7). -/
theorem State.instantiationStop_eq_some_iff {s : State} {r : Refusal} :
    s.instantiationStop = some r ↔ s.config.magic1bpp = s.config.magic2bpp ∧ r = .equalMagics := by
  simp [State.instantiationStop, eq_comm]

/-- A stopped instantiation takes no step, whoever is to move. -/
theorem step_of_instantiationStop {s : State} {r : Refusal} (h : s.instantiationStop = some r) :
    step s = .refused r := by
  simp only [step, h]

/-- Settles O6: equal magics stop the instantiation, and a stopped instantiation takes no step. -/
theorem equalMagicsAreRefused : Obligations.EqualMagicsAreRefused := by
  unfold Obligations.EqualMagicsAreRefused
  intro s hmagic
  exact step_of_instantiationStop (State.instantiationStop_eq_some_iff.mpr ⟨hmagic, rfl⟩)

end Sys2Proof.Machine
end

section
/-! The rules of the state family (10_state.md): who moves, what a register access changes and what it leaves, and who
owns the port. -/

namespace Sys2Proof.Machine

/-! ## Who moves (R26, R125) -/

theorem State.mover_of_idle {s : State} (h : s.fsm = .idle) : s.mover = .host := by
  simp [State.mover, h]

/-- While busy the first entry of `turns` moves, and the engine when there is none. -/
theorem State.mover_of_busy {s : State} (h : s.fsm = .busy) : s.mover = s.turns.head?.getD .engine := by
  cases ht : s.turns <;> simp [State.mover, h, ht]

theorem State.popTurn_of_idle {s : State} (h : s.fsm = .idle) : s.popTurn = s := by
  simp [State.popTurn, h]

theorem State.popTurn_of_busy {s : State} (h : s.fsm = .busy) : s.popTurn = { s with turns := s.turns.tail } := by
  simp [State.popTurn, h]

theorem step_of_validInstance {s : State} (hv : s.validInstance) :
    step s = if s.mover = .engine then s.popTurn.engineStep else s.popTurn.hostStep := by
  simp only [step, State.instantiationStop, if_neg hv]
  cases s.mover <;> rfl

theorem State.hostStep_of_nil {s : State} (h : s.events = []) : s.hostStep = .next s := by
  simp [State.hostStep, h]

theorem State.hostStep_of_cons {s : State} {e : Event} {rest : List Event} (h : s.events = e :: rest) :
    s.hostStep = State.handle { s with events := rest } e := by
  simp [State.hostStep, h]

/-- A completed step, down to the command or the event: `step_cases` and `State.hostStep_cases` in one. -/
theorem step_engine_or_event {s t : State} (h : step s = .next t) :
    (s.fsm = .busy ∧ s.mover = .engine ∧ s.popTurn.engineStep = .next t) ∨
      (s.mover = .host ∧ (t = s.popTurn ∨
        ∃ e rest, s.events = e :: rest ∧ State.handle { s.popTurn with events := rest } e = .next t)) := by
  rcases step_cases h with ⟨hbusy, hm, hengine⟩ | ⟨hm, hhost⟩
  · exact .inl ⟨hbusy, hm, State.popTurn_of_busy hbusy ▸ hengine⟩
  · rcases State.hostStep_cases hhost with ⟨-, rfl⟩ | ⟨e, rest, he, hhandle⟩
    · exact .inr ⟨hm, .inl rfl⟩
    · exact .inr ⟨hm, .inr ⟨e, rest, by rw [← he, State.popTurn_events], hhandle⟩⟩

/-! ## The port's operations, field by field -/

@[simp] theorem State.setReg_out0 (s : State) (r : Reg) (w : Word) : (s.setReg r w).out0 = s.out0 := by
  cases r <;> rfl
@[simp] theorem State.setReg_out1 (s : State) (r : Reg) (w : Word) : (s.setReg r w).out1 = s.out1 := by
  cases r <;> rfl
@[simp] theorem State.setReg_mem (s : State) (r : Reg) (w : Word) : (s.setReg r w).mem = s.mem := by
  cases r <;> rfl
@[simp] theorem State.setReg_config (s : State) (r : Reg) (w : Word) : (s.setReg r w).config = s.config := by
  cases r <;> rfl
@[simp] theorem State.setReg_events (s : State) (r : Reg) (w : Word) : (s.setReg r w).events = s.events := by
  cases r <;> rfl
@[simp] theorem State.setReg_turns (s : State) (r : Reg) (w : Word) : (s.setReg r w).turns = s.turns := by
  cases r <;> rfl
@[simp] theorem State.setReg_reads (s : State) (r : Reg) (w : Word) : (s.setReg r w).reads = s.reads := by
  cases r <;> rfl
@[simp] theorem State.setReg_updates (s : State) (r : Reg) (w : Word) : (s.setReg r w).updates = s.updates := by
  cases r <;> rfl
@[simp] theorem State.setReg_draws (s : State) (r : Reg) (w : Word) : (s.setReg r w).draws = s.draws := by
  cases r <;> rfl

theorem State.setReg_parameter_fsm (s : State) {r : Reg} (w : Word) (hr : r.isParameter = true) :
    (s.setReg r w).fsm = s.fsm := by
  cases r with
  | cmd => cases hr
  | _ => rfl

theorem State.setReg_parameter_status (s : State) {r : Reg} (w : Word) (hr : r.isParameter = true) :
    (s.setReg r w).status = s.status := by
  cases r with
  | cmd | status => cases hr
  | _ => rfl

theorem State.writeOffset_of_busy {s : State} (h : s.fsm = .busy) (off : Nat) (w : Word) :
    s.writeOffset off w = { s with status := s.status.overrun } := by
  simp [State.writeOffset, h]

/-- At a register's own offset a write while idle is the register's own effect (R17 to R24). -/
theorem State.writeOffset_offset {s : State} (h : s.fsm = .idle) (r : Reg) (w : Word) :
    s.writeOffset r.offset w = s.setReg r w := by
  simp [State.writeOffset, h]

/-- A CMD write while idle starts a command (R17, R26). -/
theorem State.writeOffset_cmd {s : State} (h : s.fsm = .idle) (w : Word) : s.writeOffset 0x00 w = s.startCommand w :=
  State.writeOffset_offset h .cmd w

/-- Two words that mean the same to a register are the same write, dropped or not. -/
theorem State.writeOffset_congr {s : State} {r : Reg} {w w' : Word} (h : s.setReg r w = s.setReg r w') :
    s.writeOffset r.offset w = s.writeOffset r.offset w' := by
  simp only [State.writeOffset, Reg.ofOffset_offset, h]

@[simp] theorem State.writeOffset_out0 (s : State) (off : Nat) (w : Word) : (s.writeOffset off w).out0 = s.out0 := by
  rcases s.writeOffset_cases off w with ⟨-, h⟩ | ⟨-, ⟨r, -, h⟩ | ⟨-, h⟩⟩ <;> simp [h]
@[simp] theorem State.writeOffset_out1 (s : State) (off : Nat) (w : Word) : (s.writeOffset off w).out1 = s.out1 := by
  rcases s.writeOffset_cases off w with ⟨-, h⟩ | ⟨-, ⟨r, -, h⟩ | ⟨-, h⟩⟩ <;> simp [h]

@[simp] theorem State.readOffset_offset (s : State) (r : Reg) : s.readOffset r.offset = s.getReg r := by
  simp [State.readOffset]

/-- A parameter register reads back the word written, DISP_CFG its low half (R19 to R23). -/
theorem State.getReg_setReg_parameter_same (s : State) {r : Reg} (w : Word) (hr : r.isParameter = true) :
    (s.setReg r w).getReg r = if r = .dispCfg then w &&& 0x0000FFFF#32 else w := by
  cases r with
  | cmd | status | out0 | out1 => cases hr
  | dispCfg => exact DispCfg.word_ofWord w
  | dispDim => exact DispDim.word_ofWord w
  | _ => rfl

/-- A parameter write is seen at its own offset and at no other. -/
theorem State.readOffset_setReg_parameter (s : State) {r : Reg} (w : Word) (hr : r.isParameter = true) {off : Nat}
    (hne : off ≠ r.offset) : (s.setReg r w).readOffset off = s.readOffset off := by
  unfold State.readOffset
  cases hoff : Reg.ofOffset off with
  | none => rfl
  | some r' =>
    exact s.getReg_setReg_parameter w hr fun heq => hne (heq ▸ Reg.offset_of_ofOffset hoff)

/-! ## A write of the port -/

@[simp] theorem State.portWrite_out0 (s : State) (host off : Nat) (w : Word) :
    (s.portWrite host off w).out0 = s.out0 := s.writeOffset_out0 off w
@[simp] theorem State.portWrite_out1 (s : State) (host off : Nat) (w : Word) :
    (s.portWrite host off w).out1 = s.out1 := s.writeOffset_out1 off w

/-- Who owns the port is not seen by a read. -/
@[simp] theorem State.readOffset_portWrite (s : State) (host off : Nat) (w : Word) (off' : Nat) :
    (s.portWrite host off w).readOffset off' = (s.writeOffset off w).readOffset off' := by
  unfold State.readOffset
  cases Reg.ofOffset off' with
  | none => rfl
  | some r => cases r <;> rfl

/-! ## The port's owner (R117) -/

theorem State.portConflict_eq_false_iff {s : State} {host off : Nat} : s.portConflict host off = false ↔
    ∀ o r, s.portOwner = some o → Reg.ofOffset off = some r → r.isParameter = true → o.host = host := by
  unfold State.portConflict
  cases s.portOwner <;> cases Reg.ofOffset off <;> simp

theorem State.ownerAfterWrite_of_busy {s : State} (h : s.fsm = .busy) (host off : Nat) :
    s.ownerAfterWrite host off = s.portOwner := by
  simp [State.ownerAfterWrite, h]

theorem State.ownerAfterWrite_parameter {s : State} (h : s.fsm = .idle) (host : Nat) {r : Reg}
    (hr : r.isParameter = true) : s.ownerAfterWrite host r.offset = some { host := host, started := false } := by
  simp [State.ownerAfterWrite, h, hr]

theorem State.ownerAfterWrite_cmd {s : State} (h : s.fsm = .idle) (host : Nat) :
    s.ownerAfterWrite host 0x00 =
      s.portOwner.map fun o => if o.host = host then { o with started := true } else o := by
  cases ho : s.portOwner <;> simp [State.ownerAfterWrite, h, ho, Reg.ofOffset, Reg.isParameter, apply_ite some]

theorem State.ownerAfterRead_of_busy {s : State} (h : s.fsm = .busy) (host off : Nat) :
    s.ownerAfterRead host off = s.portOwner := by
  simp [State.ownerAfterRead, h]

/-- The window stands where the instantiation puts it (R6, R16). -/
theorem State.windowOffset_congr {s t : State} (h : t.config = s.config) (addr : Word) (bits : Nat) :
    t.windowOffset addr bits = s.windowOffset addr bits := by
  simp only [State.windowOffset, h]

/-- A write that breaks no other host's ownership is served. -/
theorem State.regWrite_of_windowOffset {s : State} {host off : Nat} {addr : Word} {bits : Nat}
    (ho : s.windowOffset addr bits = some off) (hc : s.portConflict host off = false) (w : Word) :
    s.regWrite host addr bits w = .next (s.portWrite host off w) := by
  simp [State.regWrite, ho, hc]

theorem State.regRead_of_windowOffset {s : State} {addr : Word} {bits off : Nat}
    (ho : s.windowOffset addr bits = some off) (host : Nat) :
    s.regRead host addr bits = .next (s.portRead host addr off) := by
  simp [State.regRead, ho]

end Sys2Proof.Machine
end

section
/-! The invariant of the state family: what each part of a step keeps of it. -/

namespace Sys2Proof.Machine

/-- The invariant speaks of memory, the state machine and STATUS alone. -/
theorem State.Inv.congr {s t : State} (h : s.Inv) (hmem : t.mem = s.mem) (hfsm : t.fsm = s.fsm)
    (hstatus : t.status = s.status) : t.Inv := by
  simpa only [State.Inv, hmem, hfsm, hstatus] using h

/-- An idle state owes the invariant no clear flags. -/
theorem State.inv_of_idle {s : State} (hmem : s.mem.wf) (hidle : s.fsm = .idle) (hco : s.status.coherent) : s.Inv :=
  ⟨hmem, fun hbusy => by simp [hidle] at hbusy, hco⟩

theorem Status.startClear.coherent {f : Status} (h : f.startClear) : f.coherent := by
  obtain ⟨-, hupd, hfast, hclr, hpath, -⟩ := h
  simp [Status.coherent, hupd, hfast, hclr, hpath]

theorem Status.start_startClear (f : Status) : f.start.startClear := by simp [Status.startClear]

/-- A failing command shows its code and no flag of success (R106). -/
theorem Status.startClear.fail_coherent {f : Status} (h : f.startClear) (e : ErrorCode) : (f.fail e).coherent := by
  obtain ⟨-, hupd, hfast, hclr, hpath, -⟩ := h
  simp [Status.coherent, hupd, hfast, hclr, hpath]

/-- The fast path runs on fullscreen images only, which cover the display, so nothing was cleared (R78, R82, R93). -/
theorem Depth.covers_of_takesFastPath {n : Depth} {b : Blit} (h : n.takesFastPath b = true) : b.covers = true := by
  cases n with
  | one =>
    simp only [Depth.takesFastPath, Blit.isFullscreen, Bool.and_eq_true, decide_eq_true_eq] at h
    obtain ⟨⟨-, hw⟩, hh⟩ := h
    simp [Blit.covers, hw, hh]
  | two => cases h

theorem State.wf_blitMemory {s : State} (hm : s.mem.wf) (n : Depth) : (s.blitMemory n).wf := by
  cases n with
  | one => exact Blit.wf_path1 (State.wf_clearFor hm _) _
  | two => exact Blit.wf_path2 (State.wf_clearFor hm _) _

theorem State.afterBlit_coherent {s : State} (h : s.status.startClear) (n : Depth) (fast : Bool) (m : Memory) :
    (s.afterBlit n fast m (n.takesFastPath (s.blit n))).status.coherent := by
  obtain ⟨-, -, -, hclr, hpath, -⟩ := h
  have hexclusive : ¬((s.blit n).covers = false ∧ n.takesFastPath (s.blit n) = true) :=
    fun ⟨hnot, htakes⟩ => by simp [Depth.covers_of_takesFastPath htakes] at hnot
  simpa [Status.coherent, State.afterBlit, hclr, hpath] using hexclusive

/-- The engine completes every command with canonical memory and a coherent STATUS. -/
theorem State.engineStep_inv {s t : State} (hs : s.Inv) (hbusy : s.fsm = .busy) (h : s.engineStep = .next t) :
    t.Inv := by
  obtain ⟨hmem, hrun, hco⟩ := hs
  have hclear := hrun hbusy
  rcases State.engineStep_cases h with ⟨e, -, rfl⟩ | ⟨i, o, -, -, rfl⟩ | ⟨o, o', -, rfl⟩ | ⟨n, fast, -, -, rfl⟩
  · exact State.inv_of_idle hmem rfl (hclear.fail_coherent e)
  · exact State.inv_of_idle hmem rfl hco
  · exact State.inv_of_idle hmem rfl hco
  · exact State.inv_of_idle (State.wf_blitMemory hmem n) rfl (State.afterBlit_coherent hclear n fast _)

theorem State.setReg_inv {s : State} (hs : s.Inv) (hidle : s.fsm = .idle) (r : Reg) (w : Word) :
    (s.setReg r w).Inv := by
  have ⟨hmem, _, hco⟩ := hs
  cases r with
  | cmd =>
    have hclear := s.status.start_startClear
    exact ⟨hmem, fun _ => hclear, hclear.coherent⟩
  | status => exact State.inv_of_idle hmem hidle hco
  | _ => exact hs.congr rfl rfl rfl

theorem State.writeOffset_inv {s : State} (hs : s.Inv) (off : Nat) (w : Word) : (s.writeOffset off w).Inv := by
  rcases s.writeOffset_cases off w with ⟨-, heq⟩ | ⟨hidle, ⟨r, -, heq⟩ | ⟨-, heq⟩⟩ <;> rw [heq]
  · exact hs
  · exact State.setReg_inv hs hidle r w
  · exact hs

/-- The reset input forgets STATUS and leaves memory to the platform (R119). -/
theorem State.resetRegisters_inv {s : State} (hmem : s.mem.wf) : s.resetRegisters.Inv :=
  State.inv_of_idle hmem rfl (by simp [State.reset])

theorem State.handle_inv {s t : State} {e : Event} (hs : s.Inv) (h : State.handle s e = .next t) : t.Inv := by
  rcases State.handle_cases h with ⟨host, addr, off, es, rfl⟩ | ⟨host, addr, w, off, -, -, rfl⟩ | ⟨addr, v, rfl⟩ |
    ⟨addr, b, -, rfl⟩ | ⟨-, rfl | ⟨n, -, rfl⟩⟩
  · exact hs.congr rfl rfl rfl
  · exact (State.writeOffset_inv hs off w).congr rfl rfl rfl
  · exact hs.congr rfl rfl rfl
  · exact ⟨Memory.wf_writeAt hs.1 _ _ _, hs.2⟩
  · exact State.resetRegisters_inv hs.1
  · exact State.resetRegisters_inv (State.wf_scramble hs.1 _)

theorem State.popTurn_inv {s : State} (hs : s.Inv) : s.popTurn.Inv :=
  hs.congr s.popTurn_mem s.popTurn_fsm s.popTurn_status

/-- Settles O49: the engine's outcomes and every event keep the invariant, each by a lemma of its own. -/
theorem everyStepKeepsTheInvariant : Obligations.EveryStepKeepsTheInvariant := by
  unfold Obligations.EveryStepKeepsTheInvariant
  intro s t hs h
  rcases step_engine_or_event h with ⟨hbusy, -, hengine⟩ | ⟨-, rfl | ⟨e, rest, -, hhandle⟩⟩
  · exact State.engineStep_inv (State.popTurn_inv hs) (s.popTurn_fsm.trans hbusy) hengine
  · exact State.popTurn_inv hs
  · exact State.handle_inv (s := { s.popTurn with events := rest }) (State.popTurn_inv hs) hhandle

/-- Settles O50: the reset state is what the reset input leaves of it. -/
theorem resetMeetsTheInvariant : Obligations.ResetMeetsTheInvariant := by
  unfold Obligations.ResetMeetsTheInvariant
  exact State.resetRegisters_inv (s := State.reset) ⟨List.Pairwise.nil, by simp [State.reset]⟩

end Sys2Proof.Machine
end

section
/-! The statements of the state family about the engine step, STATUS and the registers. -/

namespace Sys2Proof.Machine

/-! ## The engine step as a whole -/

/-- Settles O8: each outcome of the engine step is an update of the state that leaves those fields. -/
theorem engineStepCompletesTheCommand : Obligations.EngineStepCompletesTheCommand := by
  unfold Obligations.EngineStepCompletesTheCommand
  intro s t h
  rcases State.engineStep_cases h with ⟨e, -, rfl⟩ | ⟨i, o, -, -, rfl⟩ | ⟨o, o', -, rfl⟩ | ⟨n, fast, -, -, rfl⟩
  · simp [State.sameOperands]
  · simp [State.sameOperands]
  · simp [State.sameOperands]
  · simp [State.sameOperands, State.afterBlit]

/-- Settles O4: a busy state whose turns do not put the host first is the engine's to move. -/
theorem stepRunsTheDecodedCommand : Obligations.StepRunsTheDecodedCommand := by
  unfold Obligations.StepRunsTheDecodedCommand
  intro s i hv hbusy hturns hdecode
  have hm : s.mover = .engine := by
    rw [State.mover_of_busy hbusy]
    match hhead : s.turns.head? with
    | none | some .engine => rfl
    | some .host => exact absurd hhead hturns
  rw [step_of_validInstance hv, if_pos hm, State.popTurn_of_busy hbusy]
  simp only [State.engineStep, hdecode]

/-- Settles O5: in both cases the step is the host step of the state with its turn used up. -/
theorem stepHandlesTheOldestEvent : Obligations.StepHandlesTheOldestEvent := by
  unfold Obligations.StepHandlesTheOldestEvent
  intro s hv
  refine ⟨fun hidle => ?_, fun ts hbusy hturns => ?_⟩
  · have hstep : step s = s.hostStep := by
      simp [step_of_validInstance hv, State.mover_of_idle hidle, State.popTurn_of_idle hidle]
    exact ⟨fun e rest he => hstep.trans (State.hostStep_of_cons he), fun he => hstep.trans (State.hostStep_of_nil he)⟩
  · have hstep : step s = State.hostStep { s with turns := ts } := by
      simp [step_of_validInstance hv, State.mover_of_busy hbusy, State.popTurn_of_busy hbusy, hturns]
    exact ⟨fun e rest he => hstep.trans (State.hostStep_of_cons he), fun he => hstep.trans (State.hostStep_of_nil he)⟩

/-! ## STATUS -/

/-- A bit of STATUS inside the word (R18). -/
theorem State.getLsbD_statusWord_of_lt (s : State) {i : Nat} (hi : i < 32) :
    s.statusWord.getLsbD i = s.statusBit i := by
  rw [State.getLsbD_statusWord, decide_eq_true hi, Bool.true_and]

/-- Settles O9: the bits as R18 numbers them; both writes are the registers' own effects. -/
theorem statusRegister : Obligations.StatusRegister := by
  unfold Obligations.StatusRegister
  refine ⟨fun s => ?_, fun s w hidle => ?_⟩
  · have hbit : ∀ i, i < 32 → s.statusWord.getLsbD i = s.statusBit i := fun _ => s.getLsbD_statusWord_of_lt
    refine ⟨?_, hbit 1 (by decide), hbit 2 (by decide), hbit 3 (by decide), hbit 4 (by decide), hbit 5 (by decide),
      hbit 6 (by decide), hbit 7 (by decide), s.statusWord_err, fun _ => s.statusWord_high⟩
    rw [hbit 0 (by decide)]
    exact decide_eq_true_iff
  · rw [State.writeOffset_cmd hidle]
    exact ⟨State.writeOffset_offset hidle .status w, rfl, rfl⟩

/-- While OVR is 1, a write leaves it 0 only as a write-one-to-clear of STATUS (R18). -/
theorem State.writeOffset_clears_ovr {s : State} {off : Nat} {w : Word} (hset : s.status.ovr = true)
    (hclear : (s.writeOffset off w).status.ovr = false) :
    s.fsm = .idle ∧ off = Reg.status.offset ∧ w.getLsbD 6 = true := by
  rcases s.writeOffset_cases off w with ⟨-, heq⟩ | ⟨hidle, ⟨r, hr, heq⟩ | ⟨-, heq⟩⟩ <;> rw [heq] at hclear
  · cases hclear
  · cases r with
    | status =>
      refine ⟨hidle, Reg.offset_of_ofOffset hr, ?_⟩
      simpa [State.setReg, hset] using hclear
    | _ => simp [State.setReg, State.startCommand, hset] at hclear
  · simp [hset] at hclear

theorem State.handle_clears_ovr {s t : State} {e : Event} (h : State.handle s e = .next t)
    (hset : s.status.ovr = true) (hclear : t.status.ovr = false) :
    e = .reset ∨ ∃ host addr w, e = .regWrite host addr 32 w ∧ s.fsm = .idle ∧
      s.windowOffset addr 32 = some Reg.status.offset ∧ w.getLsbD 6 = true := by
  have hkept : t.status = s.status → False := fun heq => by simp [heq, hset] at hclear
  rcases State.handle_cases h with ⟨host, addr, off, es, rfl⟩ | ⟨host, addr, w, off, he, ho, rfl⟩ | ⟨addr, v, rfl⟩ |
    ⟨addr, b, -, rfl⟩ | ⟨he, -⟩
  · exact (hkept rfl).elim
  · obtain ⟨hidle, rfl, hbit⟩ := State.writeOffset_clears_ovr hset hclear
    exact .inr ⟨host, addr, w, he, hidle, ho, hbit⟩
  · exact (hkept rfl).elim
  · exact (hkept rfl).elim
  · exact .inl he

/-- Settles O11: the engine keeps OVR (O8), and of the events only those two clear it. -/
theorem overrunIsSticky : Obligations.OverrunIsSticky := by
  unfold Obligations.OverrunIsSticky
  intro s t h hset hclear
  rcases step_engine_or_event h with ⟨-, -, hengine⟩ | ⟨-, rfl | ⟨e, rest, he, hhandle⟩⟩
  · obtain ⟨-, -, -, hovr, -⟩ := engineStepCompletesTheCommand _ _ hengine
    simp [hovr, hset] at hclear
  · simp [hset] at hclear
  · refine ⟨e, rest, he, ?_⟩
    rcases State.handle_clears_ovr hhandle (by simpa using hset) hclear with
      hreset | ⟨host, addr, w, hwrite, hidle, ho, hbit⟩
    · exact .inl hreset
    · exact .inr ⟨host, addr, w, hwrite, s.popTurn_fsm ▸ hidle,
        State.windowOffset_congr s.popTurn_config addr 32 ▸ ho, hbit⟩

/-! ## Parameter registers, reserved offsets, results -/

/-- Settles O12: the write is served, and is the parameter register's own effect with the port taken. -/
theorem parameterWriteReadsBack : Obligations.ParameterWriteReadsBack := by
  unfold Obligations.ParameterWriteReadsBack
  intro s host addr w r hidle hr ho howner
  have hserved := State.regWrite_of_windowOffset ho
    (State.portConflict_eq_false_iff.mpr fun o _ hso _ _ => howner o hso) w
  have heffect : s.writeOffset r.offset w = s.setReg r w := State.writeOffset_offset hidle r w
  refine ⟨_, hserved, ?_, fun off hne => ?_, State.ownerAfterWrite_parameter hidle host hr, ?_⟩
  · rw [State.readOffset_portWrite, heffect, State.readOffset_offset, s.getReg_setReg_parameter_same w hr]
  · rw [State.readOffset_portWrite, heffect, s.readOffset_setReg_parameter w hr hne]
  · simp [State.portWrite, heffect, s.setReg_parameter_fsm w hr, s.setReg_parameter_status w hr]

theorem State.statusWord_reserved (s : State) : s.statusWord.extractLsb' 12 20 = 0 := by
  apply BitVec.eq_of_getLsbD_eq
  intro i _
  simp [BitVec.getLsbD_extractLsb', s.statusWord_high (Nat.le_add_right 12 i)]

/-- STATUS takes only bits 1 and 6 of a written word (R18, R25). -/
theorem Status.writeOneToClear_low (f : Status) (w : Word) :
    f.writeOneToClear (w &&& 0x00000042#32) = f.writeOneToClear w := by
  simp [Status.writeOneToClear]

/-- Settles O13: no register stands at a reserved offset, and the packed registers drop their reserved bits. -/
theorem reservedOffsetsAndFields : Obligations.ReservedOffsetsAndFields := by
  unfold Obligations.ReservedOffsetsAndFields
  refine ⟨fun s off hlo _ => ?_, fun s w => ⟨s.dispCfg.word_high, s.getLsbD_statusWord_of_lt (by decide),
    s.statusWord_reserved, ?_, ?_⟩⟩
  · have hnone := Reg.ofOffset_reserved hlo
    exact ⟨by simp [State.readOffset, hnone], fun w hidle => by simp [State.writeOffset, hnone, hidle]⟩
  · exact State.writeOffset_congr (r := .dispCfg) (by simp only [State.setReg, DispCfg.ofWord_low])
  · exact State.writeOffset_congr (r := .status) (by simp only [State.setReg, Status.writeOneToClear_low])

/-- No event but the reset input changes OUT0 or OUT1 (R24). -/
theorem State.handle_keeps_results {s t : State} {e : Event} (h : State.handle s e = .next t) (hne : e ≠ .reset) :
    t.out0 = s.out0 ∧ t.out1 = s.out1 := by
  rcases State.handle_cases h with ⟨host, addr, off, es, rfl⟩ | ⟨host, addr, w, off, -, -, rfl⟩ | ⟨addr, v, rfl⟩ |
    ⟨addr, b, -, rfl⟩ | ⟨he, -⟩
  · exact ⟨rfl, rfl⟩
  · exact ⟨s.portWrite_out0 host off w, s.portWrite_out1 host off w⟩
  · exact ⟨rfl, rfl⟩
  · exact ⟨rfl, rfl⟩
  · exact absurd he hne

/-- An engine step that changes a result is a primitive's, and raises no error (R86). -/
theorem State.engineStep_changes_results {s t : State} (h : s.engineStep = .next t)
    (hchange : ¬(t.out0 = s.out0 ∧ t.out1 = s.out1)) :
    t.status.err = s.status.err ∧ (decode s.cmd = .ok .xpose8 ∨
      (t.out1 = s.out1 ∧ ∃ i ∈ [Instr.rev8, .mask1, .mask2, .lut2], decode s.cmd = .ok i)) := by
  rcases State.engineStep_cases h with ⟨e, -, rfl⟩ | ⟨i, o, hi, hd, rfl⟩ | ⟨o, o', hd, rfl⟩ | ⟨n, fast, -, -, rfl⟩
  · exact absurd ⟨rfl, rfl⟩ hchange
  · exact ⟨rfl, .inr ⟨rfl, i, hi, hd⟩⟩
  · exact ⟨rfl, .inl hd⟩
  · exact absurd ⟨rfl, rfl⟩ hchange

/-- Settles O14: only a primitive's outcome and the reset input write results, and the port's own writes do not. -/
theorem onlyPrimitivesWriteResults : Obligations.OnlyPrimitivesWriteResults := by
  unfold Obligations.OnlyPrimitivesWriteResults
  refine ⟨fun s t h hchange => ?_, fun s w hidle =>
    ⟨State.writeOffset_offset hidle .out0 w, State.writeOffset_offset hidle .out1 w⟩⟩
  rcases step_engine_or_event h with ⟨-, hm, hengine⟩ | ⟨hm, rfl | ⟨e, rest, he, hhandle⟩⟩
  · refine .inl ⟨hm, ?_⟩
    simpa using State.engineStep_changes_results hengine (by simpa using hchange)
  · exact absurd ⟨s.popTurn_out0, s.popTurn_out1⟩ hchange
  · refine .inr ⟨hm, ?_⟩
    by_cases hreset : e = .reset
    · rw [he, hreset, List.head?_cons]
    · exact absurd (by simpa using State.handle_keeps_results hhandle hreset) hchange

/-! ## Writes of CMD, and writes while busy -/

/-- Settles O15: a CMD write breaks nobody's ownership, so it is served and starts the command. -/
theorem cmdWriteStartsACommand : Obligations.CmdWriteStartsACommand := by
  unfold Obligations.CmdWriteStartsACommand
  intro s host addr w hidle ho
  have hconflict : s.portConflict host 0x00 = false :=
    State.portConflict_eq_false_iff.mpr fun o r _ hr hpar => by cases hr; cases hpar
  refine ⟨?_, ?_⟩
  · rw [State.regWrite_of_windowOffset ho hconflict w, State.portWrite, State.writeOffset_cmd hidle,
      State.ownerAfterWrite_cmd hidle]
    rfl
  · rw [State.writeOffset_cmd hidle]
    rfl

/-- Settles O16: a write that is served while busy sets OVR, and neither a write nor a read moves the port's owner. -/
theorem busyWritesAreDropped : Obligations.BusyWritesAreDropped := by
  unfold Obligations.BusyWritesAreDropped
  intro s host addr w off hbusy ho
  refine ⟨fun howner => ?_, ?_⟩
  · rw [State.regWrite_of_windowOffset ho (State.portConflict_eq_false_iff.mpr howner), State.portWrite,
      State.writeOffset_of_busy hbusy, State.ownerAfterWrite_of_busy hbusy]
    rfl
  · rw [State.regRead_of_windowOffset ho, State.portRead, State.ownerAfterRead_of_busy hbusy]
    rfl

/-- Settles O45: every register by name. -/
theorem resetStateIsZero : Obligations.ResetStateIsZero := by
  unfold Obligations.ResetStateIsZero
  refine ⟨fun r => ?_, rfl, rfl⟩
  cases r <;> rfl

end Sys2Proof.Machine
end

section
/-! Changes of memory that keep to given bytes: what such a change writes, and what its result can depend on. -/

namespace Sys2Proof.Machine

/-- Two memories hold the same bytes at the addresses of `p`. -/
def Memory.AgreeOn (p : Nat → Prop) (m m' : Memory) : Prop :=
  ∀ a, a < 2 ^ 32 → p a → m'.read a = m.read a

theorem Memory.AgreeOn.readAt {p : Nat → Prop} {m m' : Memory} (h : Memory.AgreeOn p m m') {base : Word} {off : Nat}
    (hp : p (busAddr base off)) : m'.readAt base off = m.readAt base off :=
  h _ (busAddr_lt base off) hp

/-- A change of memory that keeps memory canonical, writes no byte outside `w`, and whose result on `r` depends on no
byte outside `r`. -/
structure Confined (w r : Nat → Prop) (f : Memory → Memory) : Prop where
  wf : ∀ {m : Memory}, m.wf → (f m).wf
  frame : ∀ {m : Memory}, m.wf → Memory.AgreeOn (fun a => ¬w a) m (f m)
  agree : ∀ {m m' : Memory}, m.wf → m'.wf → Memory.AgreeOn r m m' → Memory.AgreeOn r (f m) (f m')

section
variable {w r : Nat → Prop}

theorem Confined.id : Confined w r fun m => m := ⟨fun h => h, fun _ _ _ _ => rfl, fun _ _ h => h⟩

theorem Confined.comp {f g : Memory → Memory} (hg : Confined w r g) (hf : Confined w r f) :
    Confined w r fun m => g (f m) where
  wf hm := hg.wf (hf.wf hm)
  frame hm a ha hw := (hg.frame (hf.wf hm) a ha hw).trans (hf.frame hm a ha hw)
  agree hm hm' h := hg.agree (hf.wf hm) (hf.wf hm') (hf.agree hm hm' h)

/-- One write inside `w` of a byte that is read from `r` alone. -/
theorem Confined.writeAt {base : Word} {off : Nat} {val : Memory → Byte} (hw : w (busAddr base off))
    (hval : ∀ m m', Memory.AgreeOn r m m' → val m' = val m) :
    Confined w r fun m => m.writeAt base off (val m) where
  wf hm := Memory.wf_writeAt hm _ _ _
  frame hm a _ ha := by
    have hne : busAddr base off ≠ a := fun e => ha (e ▸ hw)
    rw [Memory.read_writeAt hm, if_neg hne]
  agree {m m'} hm hm' h a ha hr := by
    rw [Memory.read_writeAt hm, Memory.read_writeAt hm', hval m m' h, h a ha hr]

theorem Confined.forRange {n : Nat} {body : Nat → Memory → Memory} (h : ∀ i, i < n → Confined w r (body i)) :
    Confined w r (forRange n body) := by
  induction n with
  | zero => exact Confined.id
  | succ n ih =>
    have hstep : Machine.forRange (n + 1) body = fun m => body n (Machine.forRange n body m) :=
      funext fun m => forRange_succ n body m
    rw [hstep]
    exact (h n (Nat.lt_succ_self n)).comp (ih fun i hi => h i (Nat.lt_succ_of_lt hi))

/-- The pixel loop keeps to the bytes that each of its pixels keeps to. -/
theorem Confined.forPixels {b : Blit} {body : Nat → Nat → Memory → Memory}
    (h : ∀ x y, x < b.copyW → y < b.copyH → Confined w r (body x y)) : Confined w r (b.forPixels body) :=
  Confined.forRange fun y hy => Confined.forRange fun x hx => h x y hx hy

end

/-! ## The buffers of a BLIT (R38, R45) -/

/-- The bytes a BLIT writes. -/
def Blit.inFb (b : Blit) (a : Nat) : Prop := inRange b.fb b.fbLen a = true

/-- The bytes a BLIT reads: header and payload, and what its read-modify-writes read of the framebuffer. -/
def Blit.inBuffers (b : Blit) (a : Nat) : Prop := inRange b.src b.imageLen a = true ∨ b.inFb a

/-- What keeps to the buffers of a BLIT: writes in its framebuffer, reads in header, payload and framebuffer (R45). -/
abbrev Blit.Keeps (b : Blit) (f : Memory → Memory) : Prop := Confined b.inFb b.inBuffers f

/-- A value that is read from the buffers of a BLIT alone. -/
abbrev Blit.ReadsBuffers {β : Type} (b : Blit) (val : Memory → β) : Prop :=
  ∀ m m', Memory.AgreeOn b.inBuffers m m' → val m' = val m

section
variable {b : Blit}

theorem Blit.readsBuffers_image {off : Nat} (h : off < b.imageLen) : b.ReadsBuffers fun m => m.readAt b.src off :=
  fun _ _ hm => hm.readAt (.inl (inRange_busAddr h))

theorem Blit.readsBuffers_fb {off : Nat} (h : off < b.fbLen) : b.ReadsBuffers fun m => m.readAt b.fb off :=
  fun _ _ hm => hm.readAt (.inr (inRange_busAddr h))

theorem Blit.keeps_writeAt {off : Nat} {val : Memory → Byte} (hoff : off < b.fbLen) (hval : b.ReadsBuffers val) :
    b.Keeps fun m => m.writeAt b.fb off (val m) :=
  Confined.writeAt (inRange_busAddr hoff) hval

/-- A read-modify-write of one framebuffer byte (R43). -/
theorem Blit.keeps_update {off : Nat} {upd : Memory → Byte → Byte} (hoff : off < b.fbLen)
    (hupd : b.ReadsBuffers upd) : b.Keeps fun m => m.writeAt b.fb off (upd m (m.readAt b.fb off)) :=
  Blit.keeps_writeAt hoff fun m m' h => congr (hupd m m' h) (Blit.readsBuffers_fb hoff m m' h)

theorem Blit.keeps_setBit {off i : Nat} {src : Memory → Bool} (hoff : off < b.fbLen) (hsrc : b.ReadsBuffers src) :
    b.Keeps fun m => m.setBit b.fb off i (src m) :=
  Blit.keeps_update (upd := fun m v => setBitOf v i (src m)) hoff fun m m' h =>
    funext fun v => congrArg (setBitOf v i) (hsrc m m' h)

theorem Blit.keeps_setField2 {off k : Nat} {src : Memory → BitVec 2} (hoff : off < b.fbLen)
    (hsrc : b.ReadsBuffers src) : b.Keeps fun m => m.setField2 b.fb off k (src m) :=
  Blit.keeps_update (upd := fun m v => setField2Of v k (src m)) hoff fun m m' h =>
    funext fun v => congrArg (setField2Of v k) (hsrc m m' h)

/-! ## Where the pixels stand: offsets inside the buffers -/

/-- Byte `c` of row `y` lies inside `h` rows of `p` bytes. -/
theorem rowByte_lt {y h c p : Nat} (hy : y < h) (hc : c < p) : y * p + c < h * p :=
  calc y * p + c < (y + 1) * p := by rw [Nat.succ_mul]; omega
    _ ≤ h * p := Nat.mul_le_mul_right p hy

theorem div_lt_ceilDiv {x n : Nat} (h : x < n) : x / 8 < ceilDiv n 8 := by
  unfold ceilDiv; omega

theorem Blit.fbByte_lt {c ny : Nat} (hc : c < b.dstPitch) (hy : ny < b.nh) : ny * b.dstPitch + c < b.fbLen := by
  rw [Blit.fbLen, Nat.mul_comm b.dstPitch]
  exact rowByte_lt hy hc

/-- Native pixel column `nx` of a 1bpp row (R40). -/
theorem Blit.col1_lt_dstPitch (hd : b.depth = .one) {nx : Nat} (h : nx < b.nw) : nx / 8 < b.dstPitch := by
  simpa only [Blit.dstPitch, hd] using div_lt_ceilDiv h

/-- Native pixel column `nx` of a 2bpp row, whose width is a multiple of 4 (R41, R75). -/
theorem Blit.col2_lt_dstPitch (hd : b.depth = .two) (h4 : b.nw % 4 = 0) {nx : Nat} (h : nx < b.nw) :
    nx / 4 < b.dstPitch := by
  simp only [Blit.dstPitch, hd]
  omega

theorem Blit.readsBuffers_srcPix1 (hd : b.depth = .one) {x y : Nat} (hx : x < b.sw) (hy : y < b.sh) :
    b.ReadsBuffers fun m => b.srcPix1 m x y := by
  have hoff : Config.hdrSize + y * b.src1Pitch + x / 8 < b.imageLen := by
    have := rowByte_lt hy (div_lt_ceilDiv hx)
    simp only [Blit.imageLen, hd, Depth.expSize, Blit.src1Pitch]
    omega
  intro m m' h
  simp only [Blit.srcPix1, Blit.readsBuffers_image hoff m m' h]

/-- The two planes of a 2bpp payload, one after the other (R41). -/
theorem Blit.readsBuffers_planeBit (hd : b.depth = .two) {plane x y : Nat} (hp : plane ≤ b.planeSize) (hx : x < b.sw)
    (hy : y < b.sh) : b.ReadsBuffers fun m => b.planeBit m plane x y := by
  have hoff : Config.hdrSize + plane + x * b.planePitch + y / 8 < b.imageLen := by
    have := rowByte_lt hx (div_lt_ceilDiv hy)
    simp only [Blit.imageLen, hd, Depth.expSize, Blit.planeSize, Blit.planePitch, Nat.mul_assoc] at hp ⊢
    omega
  intro m m' h
  simp only [Blit.planeBit, Blit.readsBuffers_image hoff m m' h]

theorem Blit.readsBuffers_nativeOfSrc2 (hd : b.depth = .two) {x y : Nat} (hx : x < b.sw) (hy : y < b.sh) :
    b.ReadsBuffers fun m => b.nativeOfSrc2 m x y := fun m m' h => by
  simp only [Blit.nativeOfSrc2, Blit.srcVal2,
    Blit.readsBuffers_planeBit hd (Nat.zero_le _) hx hy m m' h,
    Blit.readsBuffers_planeBit hd (Nat.le_refl _) hx hy m m' h]

/-! ## The clear and the paths keep to the buffers -/

theorem Blit.keeps_fill : b.Keeps b.fill :=
  Confined.forRange fun _ hi => Blit.keeps_writeAt hi fun _ _ _ => rfl

/-- A fullscreen image has as many payload bytes as the framebuffer has bytes (R93). -/
theorem Blit.fullscreen_lens (hd : b.depth = .one) (hf : b.isFullscreen = true) :
    b.sh * b.src1Pitch = b.fbLen ∧ Config.hdrSize + b.fbLen = b.imageLen ∧ b.nw = b.lw ∧ b.nh = b.lh := by
  simp only [Blit.isFullscreen, Bool.and_eq_true, decide_eq_true_eq] at hf
  obtain ⟨⟨hr, hw⟩, hh⟩ := hf
  simp only [Blit.imageLen, Blit.fbLen, Blit.dstPitch, Blit.src1Pitch, Blit.nw, Blit.nh, Depth.expSize, hd, hr, hw, hh,
    Nat.mul_comm (ceilDiv b.lw 8), and_self]

theorem Blit.keeps_bulkCopy (hd : b.depth = .one) (hf : b.isFullscreen = true) : b.Keeps b.bulkCopy := by
  obtain ⟨hlen, himage, -, -⟩ := Blit.fullscreen_lens hd hf
  refine Confined.forRange fun i hi => ?_
  rw [hlen] at hi
  exact Blit.keeps_writeAt hi (Blit.readsBuffers_image (by omega))

theorem Blit.keeps_fixPadding (hd : b.depth = .one) (hf : b.isFullscreen = true) : b.Keeps b.fixPadding := by
  obtain ⟨-, -, hnw, hnh⟩ := Blit.fullscreen_lens hd hf
  by_cases h8 : b.lw % 8 = 0
  · have : b.fixPadding = fun m => m := funext fun m => if_pos h8
    exact this ▸ Confined.id
  · have : b.fixPadding = forRange b.lh fun ny m =>
        m.writeAt b.fb (ny * b.dstPitch + b.dstPitch - 1)
          (m.readAt b.fb (ny * b.dstPitch + b.dstPitch - 1) &&& mask1Byte (b.lw % 8)) :=
      funext fun m => if_neg h8
    rw [this]
    refine Confined.forRange fun ny hny => ?_
    have hpitch : b.lw / 8 < b.dstPitch := by
      simp only [Blit.dstPitch, hd, hnw, ceilDiv]
      omega
    have hoff : ny * b.dstPitch + b.dstPitch - 1 < b.fbLen := by
      have := Blit.fbByte_lt (c := b.dstPitch - 1) (ny := ny) (by omega) (hnh ▸ hny)
      omega
    exact Blit.keeps_update (upd := fun _ v => v &&& mask1Byte (b.lw % 8)) hoff fun _ _ _ => rfl

/-- A 1bpp converter whose pixel `(x, y)` goes to a column and a row of the native image. -/
theorem Blit.keeps_pixels1 (hd : b.depth = .one) {nx ny bit : Nat → Nat → Nat}
    (h : ∀ x y, x < b.lw → y < b.lh → nx x y < b.nw ∧ ny x y < b.nh) :
    b.Keeps (b.forPixels fun x y m =>
      m.setBit b.fb (ny x y * b.dstPitch + nx x y / 8) (bit x y) (b.srcPix1 m x y)) :=
  Confined.forPixels fun x y hx hy => by
    obtain ⟨hsw, hlw⟩ := Nat.lt_min.mp hx
    obtain ⟨hsh, hlh⟩ := Nat.lt_min.mp hy
    obtain ⟨hnx, hny⟩ := h x y hlw hlh
    exact Blit.keeps_setBit (Blit.fbByte_lt (Blit.col1_lt_dstPitch hd hnx) hny) (Blit.readsBuffers_srcPix1 hd hsw hsh)

/-- A 2bpp converter whose pixel `(x, y)` goes to a byte column and a row of the native image. -/
theorem Blit.keeps_pixels2 (hd : b.depth = .two) {col ny slot : Nat → Nat → Nat}
    (h : ∀ x y, x < b.lw → y < b.lh → col x y < b.dstPitch ∧ ny x y < b.nh) :
    b.Keeps (b.forPixels fun x y m =>
      m.setField2 b.fb (ny x y * b.dstPitch + col x y) (slot x y) (b.nativeOfSrc2 m x y)) :=
  Confined.forPixels fun x y hx hy => by
    obtain ⟨hsw, hlw⟩ := Nat.lt_min.mp hx
    obtain ⟨hsh, hlh⟩ := Nat.lt_min.mp hy
    obtain ⟨hcol, hny⟩ := h x y hlw hlh
    exact Blit.keeps_setField2 (Blit.fbByte_lt hcol hny) (Blit.readsBuffers_nativeOfSrc2 hd hsw hsh)

end

/-! ## The memory of a BLIT -/

/-- What a format's path does to memory (R82). -/
def Depth.pathMemory (n : Depth) (b : Blit) : Memory → Memory :=
  match n, b.isFullscreen, b.rot with
  | .one, true, _ => b.fastPath
  | .one, false, .deg0 => b.convert1Deg0
  | .one, false, .deg90 => b.convert1Deg90
  | .one, false, .deg180 => b.convert1Deg180
  | .one, false, .deg270 => b.convert1Deg270
  | .two, _, .deg0 => b.convert2Deg0
  | .two, _, .deg90 => b.convert2Deg90
  | .two, _, .deg180 => b.convert2Deg180
  | .two, _, .deg270 => b.convert2Deg270

theorem Depth.path_mem (n : Depth) (b : Blit) (s : State) : (n.path b s).mem = n.pathMemory b s.mem := by
  cases n with
  | one =>
    cases hf : b.isFullscreen <;> cases hr : b.rot <;>
      simp [Depth.path, Blit.path1, Depth.pathMemory, hf, hr]
  | two => cases hr : b.rot <;> simp [Depth.path, Blit.path2, Depth.pathMemory, hr]

/-- What a BLIT does to memory: the clear where the source does not cover the display, then the path (R83). -/
def Depth.blitMemory (n : Depth) (b : Blit) (m : Memory) : Memory :=
  n.pathMemory b (if b.covers then m else b.fill m)

theorem State.blitMemory_eq (s : State) (n : Depth) : s.blitMemory n = n.blitMemory (s.blit n) s.mem := by
  rw [State.blitMemory, Depth.path_mem, State.clearFor, Depth.blitMemory]
  split <;> rfl

/-- Every path keeps to the buffers; a 2bpp native row must be whole bytes (R75). -/
theorem Depth.keeps_pathMemory {n : Depth} {b : Blit} (hd : b.depth = n) (h4 : n = .two → b.nw % 4 = 0) :
    b.Keeps (n.pathMemory b) := by
  cases n with
  | one =>
    cases hf : b.isFullscreen with
    | true =>
      have : Depth.one.pathMemory b = fun m => b.fixPadding (b.bulkCopy m) := by
        simp only [Depth.pathMemory, hf]; rfl
      exact this ▸ (Blit.keeps_fixPadding hd hf).comp (Blit.keeps_bulkCopy hd hf)
    | false =>
      cases hr : b.rot <;> simp only [Depth.pathMemory, hf, hr] <;>
        exact Blit.keeps_pixels1 hd fun x y hx hy => by simp only [Blit.nw, Blit.nh, hr]; omega
  | two =>
    have hcol : ∀ {nx}, nx < b.nw → nx / 4 < b.dstPitch := Blit.col2_lt_dstPitch hd (h4 rfl)
    have h4 := h4 rfl
    cases hr : b.rot with
    | deg270 =>
      simp only [Depth.pathMemory, hr]
      refine Blit.keeps_pixels2 hd fun x y hx hy => ?_
      simp only [Blit.dstPitch, Blit.nw, Blit.nh, hd, hr] at h4 ⊢
      omega
    | _ =>
      simp only [Depth.pathMemory, hr]
      refine Blit.keeps_pixels2 hd fun x y hx hy => ⟨hcol ?_, ?_⟩ <;> simp only [Blit.nw, Blit.nh, hr] <;> omega

/-- A BLIT keeps to its buffers (R45). -/
theorem Depth.keeps_blitMemory {n : Depth} {b : Blit} (hd : b.depth = n) (h4 : n = .two → b.nw % 4 = 0) :
    b.Keeps (n.blitMemory b) := by
  refine (Depth.keeps_pathMemory hd h4).comp ?_
  split
  · exact Confined.id
  · exact Blit.keeps_fill

end Sys2Proof.Machine
end

section
/-! Which bytes a step changes (R31, R45, R51, R120). -/

namespace Sys2Proof.Machine

/-! ## What the ten checks leave -/

theorem firstFailing_eq_none {checks : List (Bool × ErrorCode)} :
    firstFailing checks = none ↔ ∀ c ∈ checks, c.1 = false := by
  simp [firstFailing]

/-- What a validated command's checks say of the display's depth (R70), the payload's size (R73) and the native width
(R75). -/
theorem State.geometry_of_firstError {s : State} {n : Depth} (h : s.firstError n = none) :
    s.dispCfg.depth.toNat = n.bits ∧ s.header.dataSize = n.expSize (s.blit n).sw (s.blit n).sh ∧
      (n = .two → (s.blit n).nw % 4 = 0) := by
  rw [← State.validate_eq_firstError, State.validate, firstFailing_eq_none, List.forall_mem_append] at h
  obtain ⟨-, h⟩ := h
  simp only [State.headerChecks, List.forall_mem_cons, bne_eq_false_iff_eq, Bool.and_eq_false_imp, beq_iff_eq] at h
  obtain ⟨-, -, hdepth, -, -, hsize, -, hwidth, -⟩ := h
  exact ⟨hdepth, hsize, hwidth⟩

/-- A validated BLIT keeps to its buffers (R45). -/
theorem State.keeps_blitMemory {s : State} {n : Depth} (h : s.firstError n = none) :
    (s.blit n).Keeps (n.blitMemory (s.blit n)) := by
  obtain ⟨-, -, h4⟩ := State.geometry_of_firstError h
  exact Depth.keeps_blitMemory rfl h4

theorem State.firstError_of_admission {s : State} {n : Depth} {b : Blit} (h : s.admission n = .run b) :
    s.firstError n = none := by
  rw [← State.validate_eq_firstError]
  exact (State.admission_run.mp h).2.1

/-! ## Memory in each kind of step -/

@[simp] theorem busAddr_zero (addr : Word) : busAddr addr 0 = addr.toNat := Nat.mod_eq_of_lt addr.isLt

@[simp] theorem State.writeOffset_mem (s : State) (off : Nat) (w : Word) : (s.writeOffset off w).mem = s.mem := by
  rcases s.writeOffset_cases off w with ⟨-, h⟩ | ⟨-, ⟨r, -, h⟩ | ⟨-, h⟩⟩ <;> simp [h]

@[simp] theorem State.popTurn_blit (s : State) (n : Depth) : s.popTurn.blit n = s.blit n := by
  unfold State.popTurn
  split <;> rfl

theorem State.popTurn_inFramebuffer {s : State} {n : Depth} {a : Nat} :
    s.popTurn.inFramebuffer n a ↔ s.inFramebuffer n a := by
  rw [State.inFramebuffer, State.popTurn_blit, State.popTurn_fbAddr]

/-- The free bytes of an abandoned BLIT stand in its framebuffer (R120). -/
theorem State.scramble_frame {s : State} (hm : s.mem.wf) (b : Blit) :
    Memory.AgreeOn (fun a => ¬b.inFb a) s.mem (s.scramble b).mem :=
  Confined.frame (r := b.inBuffers)
    (Confined.forRange fun _ hi => Blit.keeps_writeAt hi fun _ _ _ => rfl) hm

/-- The engine changes a byte only in a BLIT, inside its framebuffer (R45). -/
theorem State.engineStep_changes_memory {s t : State} {a : Nat} (hm : s.mem.wf) (h : s.engineStep = .next t)
    (ha : a < 2 ^ 32) (hne : t.mem.read a ≠ s.mem.read a) :
    ∃ n fast, decode s.cmd = .ok (Depth.instr n fast) ∧ s.inFramebuffer n a := by
  rcases State.engineStep_cases h with ⟨e, -, rfl⟩ | ⟨i, o, -, -, rfl⟩ | ⟨o, o', -, rfl⟩ | ⟨n, fast, hd, hrun, rfl⟩
  · exact absurd rfl hne
  · exact absurd rfl hne
  · exact absurd rfl hne
  · refine ⟨n, fast, hd, by_contra fun hout => hne ?_⟩
    have hkeeps := State.keeps_blitMemory (State.firstError_of_admission hrun)
    exact (congrArg (Memory.read · a) (s.blitMemory_eq n)).trans (hkeeps.frame hm a ha hout)

/-- An event changes a byte only as another agent's write of that byte, or as the reset input while a BLIT runs, inside
its framebuffer (R31, R120). -/
theorem State.handle_changes_memory {s t : State} {e : Event} {a : Nat} (hm : s.mem.wf)
    (h : State.handle s e = .next t) (ha : a < 2 ^ 32) (hne : t.mem.read a ≠ s.mem.read a) :
    (e = .reset ∧ ∃ n fast, s.fsm = .busy ∧ decode s.cmd = .ok (Depth.instr n fast) ∧ s.inFramebuffer n a) ∨
      ∃ addr v, e = .memWrite addr v ∧ addr.toNat = a := by
  rcases State.handle_cases h with ⟨host, addr, off, es, rfl⟩ | ⟨host, addr, w, off, -, -, rfl⟩ | ⟨addr, v, rfl⟩ |
    ⟨addr, b, he, rfl⟩ | ⟨he, rfl | ⟨n, hn, rfl⟩⟩
  · exact absurd rfl hne
  · exact absurd (congrArg (Memory.read · a) (s.writeOffset_mem off w)) hne
  · exact absurd rfl hne
  · refine .inr ⟨addr, b, he, by_contra fun hout => hne ?_⟩
    rw [Memory.read_writeAt hm, busAddr_zero, if_neg hout]
  · exact absurd rfl hne
  · obtain ⟨hbusy, fast, hd⟩ := State.runningBlit_eq_some hn
    exact .inl ⟨he, n, fast, hbusy, hd, by_contra fun hout => hne (State.scramble_frame hm _ a ha hout)⟩

/-- Settles O44: the engine changes a byte in a BLIT alone, and of the events only those two change one. -/
theorem onlyTheseStepsChangeMemory : Obligations.OnlyTheseStepsChangeMemory := by
  unfold Obligations.OnlyTheseStepsChangeMemory
  intro s t a hm h ha hne
  have hmem := s.popTurn_mem
  rcases step_engine_or_event h with ⟨hbusy, hmover, hengine⟩ | ⟨hmover, rfl | ⟨e, rest, he, hhandle⟩⟩
  · obtain ⟨n, fast, hd, hin⟩ := State.engineStep_changes_memory (hmem ▸ hm) hengine ha (hmem ▸ hne)
    exact .inl ⟨n, fast, hbusy, s.popTurn_cmd ▸ hd, State.popTurn_inFramebuffer.mp hin, .inl hmover⟩
  · exact absurd (congrArg (Memory.read · a) hmem) hne
  · have hhead : s.events.head? = some e := by rw [he, List.head?_cons]
    rcases State.handle_changes_memory (s := { s.popTurn with events := rest }) (hmem ▸ hm) hhandle ha (hmem ▸ hne)
      with ⟨rfl, n, fast, hbusy, hd, hin⟩ | ⟨addr, v, rfl, haddr⟩
    · exact .inl ⟨n, fast, s.popTurn_fsm ▸ hbusy, s.popTurn_cmd ▸ hd, State.popTurn_inFramebuffer.mp hin, .inr hhead⟩
    · exact .inr ⟨v, addr, hmover, hhead, haddr⟩

end Sys2Proof.Machine
end

section
/-! The stops of a BLIT before its first write: bytes that are not plain memory (R44, R46) and buffers that overlap
(R52). -/

namespace Sys2Proof.Machine

/-! ## A range that is not plain memory, in the claims' words -/

theorem State.plain_iff {s : State} {base : Word} {len : Nat} : s.plain base len = true ↔
    ¬(s.meetsRegion .noResponse base len ∨ s.meetsRegion .sideEffects base len) := by
  simp only [State.plain, Bool.and_eq_true, Bool.not_eq_true', ← Bool.not_eq_true, State.touches_iff, not_or]

theorem State.accessStop_of_noResponse {s : State} {base : Word} {len : Nat}
    (h : s.meetsRegion .noResponse base len) : s.accessStop base len = some (.stuck .memoryNoResponse) := by
  rw [State.accessStop, if_pos (State.touches_iff.mpr h)]

theorem State.accessStop_of_sideEffects {s : State} {base : Word} {len : Nat}
    (h : ¬s.meetsRegion .noResponse base len) (h' : s.meetsRegion .sideEffects base len) :
    s.accessStop base len = some (.outside .sideEffectMemory) := by
  rw [State.accessStop, if_neg (mt State.touches_iff.mp h), if_pos (State.touches_iff.mpr h')]

/-! ## What the stop of each range makes of the command -/

theorem State.headerStop_of_headerRead {s : State} (h : s.headerRead) : s.headerStop = s.accessStop s.srcAddr 22 := by
  rw [State.headerStop, State.headerRead_iff.mp h, Config.hdrSize]

theorem State.admission_of_headerStop {s : State} {x : Admission} (h : s.headerStop = some x) (n : Depth) :
    s.admission n = x := by
  simp only [State.admission, h]

/-- A validated command whose header can be read is stopped by its buffers or runs. -/
theorem State.admission_of_firstError {s : State} {n : Depth} (h : s.firstError n = none)
    (hp : s.plain s.srcAddr 22 = true) : s.admission n = (s.bufferStop (s.blit n)).getD (.run (s.blit n)) := by
  have hstop : s.headerStop = none := by
    rw [State.headerStop_of_headerRead (State.headerRead_of_firstError h), State.accessStop_eq_none.mpr hp]
  have hvalid : s.validate n = none := (s.validate_eq_firstError n).trans h
  simp only [State.admission, hstop, hvalid]
  cases s.bufferStop (s.blit n) <;> rfl

theorem State.bufferStop_of_image {s : State} {b : Blit} {x : Admission}
    (h : s.accessStop b.src b.imageLen = some x) : s.bufferStop b = some x := by
  simp only [State.bufferStop, h]

theorem State.bufferStop_of_fb {s : State} {b : Blit} {x : Admission} (hi : s.plain b.src b.imageLen = true)
    (h : s.accessStop b.fb b.fbLen = some x) : s.bufferStop b = some x := by
  simp only [State.bufferStop, State.accessStop_eq_none.mpr hi, h]

theorem State.bufferStop_of_overlap {s : State} {b : Blit} (hi : s.plain b.src b.imageLen = true)
    (hf : s.plain b.fb b.fbLen = true) (h : rangesMeet b.src b.imageLen b.fb b.fbLen = true) :
    s.bufferStop b = some (.outside .bufferOverlap) := by
  simp only [State.bufferStop, State.accessStop_eq_none.mpr hi, State.accessStop_eq_none.mpr hf, h, if_true]

theorem exec_blit_of_stuck {s : State} {n : Depth} {f : Fault} (h : s.admission n = .stuck f) (fast : Bool) :
    exec (n.instr fast) s = .fault f := by
  rw [exec_blit, State.runBlit, h]

theorem exec_blit_of_outside {s : State} {n : Depth} {r : Refusal} (h : s.admission n = .outside r) (fast : Bool) :
    exec (n.instr fast) s = .refused r := by
  rw [exec_blit, State.runBlit, h]

/-- A command for which a range's stop decides faults or is refused as the range's regions say (R44, R46). -/
theorem exec_blit_stopsAt {s : State} {n : Depth} {base : Word} {len : Nat}
    (hstop : ∀ x, s.accessStop base len = some x → s.admission n = x) (fast : Bool) :
    (s.meetsRegion .noResponse base len → exec (n.instr fast) s = .fault .memoryNoResponse) ∧
      (¬s.meetsRegion .noResponse base len → s.meetsRegion .sideEffects base len →
        exec (n.instr fast) s = .refused .sideEffectMemory) :=
  ⟨fun h => exec_blit_of_stuck (hstop _ (State.accessStop_of_noResponse h)) fast,
    fun h h' => exec_blit_of_outside (hstop _ (State.accessStop_of_sideEffects h h')) fast⟩

/-! ## The two statements -/

/-- Settles O28: with both buffers plain only their overlap is left to stop the command. -/
theorem overlappingBuffersAreRefused : Obligations.OverlappingBuffersAreRefused := by
  unfold Obligations.OverlappingBuffersAreRefused
  intro s n fast hvalid himage hfb hmeet
  have hstop : s.bufferStop (s.blit n) = some (.outside .bufferOverlap) :=
    State.bufferStop_of_overlap himage hfb (rangesMeet_iff.mpr hmeet)
  refine exec_blit_of_outside ?_ fast
  rw [State.admission_of_firstError hvalid (State.plain_hdr himage (Nat.le_add_right _ _)), hstop, Option.getD_some]

/-- Settles O29: the three ranges in the order in which the command looks at them. -/
theorem buffersOffPlainMemoryStop : Obligations.BuffersOffPlainMemoryStop := by
  unfold Obligations.BuffersOffPlainMemoryStop
  intro s n fast
  refine ⟨fun hread => exec_blit_stopsAt (fun x hx => ?_) fast, fun hvalid hheader => ?_⟩
  · exact State.admission_of_headerStop ((State.headerStop_of_headerRead hread).trans hx) n
  have hadmission := State.admission_of_firstError hvalid (State.plain_iff.mpr hheader)
  refine ⟨exec_blit_stopsAt (fun x hx => ?_) fast, fun himage => exec_blit_stopsAt (fun x hx => ?_) fast⟩
  · rw [hadmission, State.bufferStop_of_image hx, Option.getD_some]
  · rw [hadmission, State.bufferStop_of_fb (State.plain_iff.mpr himage) hx, Option.getD_some]

end Sys2Proof.Machine
end

section
/-! Accesses of other agents while a BLIT is BUSY (R51). -/

namespace Sys2Proof.Machine

@[simp] theorem Memory.readAt_zero (m : Memory) (addr : Word) : m.readAt addr 0 = m.read addr.toNat := by
  rw [Memory.readAt, busAddr_zero]

@[simp] theorem Memory.writeAt_zero (m : Memory) (addr : Word) (v : Byte) : m.writeAt addr 0 v = m.write addr.toNat v := by
  rw [Memory.writeAt, busAddr_zero]

/-- A read of plain memory by another agent, refused or served. -/
theorem State.memRead_of_plain {s : State} {addr : Word} (h : s.plain addr 1 = true) : s.memRead addr =
    if s.framebufferInUse addr.toNat = true then .refused .bufferRace
    else .next (s.record addr ((s.mem.read addr.toNat).setWidth 32)) := by
  simp [State.memRead, h]

/-- A write of plain memory by another agent, refused or served. -/
theorem State.memWrite_of_plain {s : State} {addr : Word} (h : s.plain addr 1 = true) (v : Byte) : s.memWrite addr v =
    if s.imageInUse addr.toNat = true ∨ s.framebufferInUse addr.toNat = true then .refused .bufferRace
    else .next { s with mem := s.mem.write addr.toNat v } := by
  simp [State.memWrite, h]

/-- For a validated command R39's range on the registers is the range it uses: DEPTH is its own format's (R70). -/
theorem State.inDeclaredFramebuffer_iff {s : State} {n : Depth} (h : s.firstError n = none) (a : Nat) :
    s.inDeclaredFramebuffer n a ↔ s.inFramebuffer n a := by
  obtain ⟨hdepth, -, -⟩ := State.geometry_of_firstError h
  rw [State.inDeclaredFramebuffer, State.inFramebuffer, State.blit_fbLen, hdepth, ite_self]

/-- For a validated command R38's ranges are those it uses: the payload has its expected size (R73). -/
theorem State.inDeclaredImage_iff {s : State} {n : Depth} (h : s.firstError n = none) (a : Nat) :
    s.inDeclaredImage a ↔ s.inImage n a := by
  obtain ⟨-, hsize, -⟩ := State.geometry_of_firstError h
  have hlen : 22 + le32 s.mem s.srcAddr 0x0A = (s.blit n).imageLen := by
    rw [← Memory.readLE_four]
    exact congrArg (22 + ·) hsize
  rw [State.inDeclaredImage, State.inImage, hlen]
  exact ⟨fun hin => hin.elim (inRange_mono (Nat.le_add_right 22 _)) (·.2),
    fun hin => .inr ⟨State.headerRead_of_firstError h, hin⟩⟩

/-- Settles O30: the ranges in use are the declared ones, and they alone decide whether an access is served. -/
theorem otherAgentsMayNotRace : Obligations.OtherAgentsMayNotRace := by
  unfold Obligations.OtherAgentsMayNotRace
  intro s n fast a v hbusy hd hplain
  have hrunning := State.runningBlit_of hbusy hd
  have hfb := State.framebufferInUse_iff hrunning a.toNat
  have himage := State.imageInUse_iff hrunning a.toNat
  rw [State.memRead_of_plain hplain, State.memWrite_of_plain hplain]
  refine ⟨fun h => ⟨if_pos (hfb.mpr h), if_pos (.inr (hfb.mpr h))⟩, fun h => if_pos (.inl (himage.mpr h)),
    fun h => if_neg (mt hfb.mp h), fun h h' => if_neg (not_or.mpr ⟨mt himage.mp h', mt hfb.mp h⟩), fun hvalid => ?_⟩
  exact ⟨State.inDeclaredFramebuffer_iff hvalid _, State.inDeclaredImage_iff hvalid _⟩

end Sys2Proof.Machine
end

section
/-! What a BLIT reads (R45): two memories that agree on the bytes it may read give it the same checks, the same geometry
and the same framebuffer. -/

namespace Sys2Proof.Machine

/-! ## The header -/

/-- The addresses of the header (R64). -/
def State.inHeader (s : State) (a : Nat) : Prop := inRange s.srcAddr 22 a = true

section
variable {s : State} {m : Memory} (hm : Memory.AgreeOn s.inHeader s.mem m)
include hm

theorem State.readAt_header {off : Nat} (hoff : off < 22) : m.readAt s.srcAddr off = s.mem.readAt s.srcAddr off :=
  hm.readAt (inRange_busAddr hoff)

theorem State.le16_header {off : Nat} (hoff : off + 1 < 22) : le16 m s.srcAddr off = le16 s.mem s.srcAddr off := by
  simp only [le16, State.readAt_header hm hoff, State.readAt_header hm (Nat.lt_of_succ_lt hoff)]

theorem State.le32_header {off : Nat} (hoff : off + 3 < 22) : le32 m s.srcAddr off = le32 s.mem s.srcAddr off := by
  have hread : ∀ i, i < 22 → m.readAt s.srcAddr i = s.mem.readAt s.srcAddr i := fun _ => State.readAt_header hm
  simp only [le32, hread off (by omega), hread (off + 1) (by omega), hread (off + 2) (by omega), hread (off + 3) hoff]

/-- The header's bytes decide a BLIT's geometry. -/
theorem State.blit_congr (n : Depth) : State.blit { s with mem := m } n = s.blit n := by
  have hw := State.le16_header hm (off := 0x04) (by decide)
  have hh := State.le16_header hm (off := 0x06) (by decide)
  simp only [State.blit, State.header, Memory.readLE_two, hw, hh]

/-- The header's bytes decide the checks. -/
theorem State.firstError_congr_header (n : Depth) : State.firstError { s with mem := m } n = s.firstError n := by
  simp only [State.firstError, State.le32_header hm (off := 0x00) (by decide),
    State.le16_header hm (off := 0x04) (by decide), State.le16_header hm (off := 0x06) (by decide),
    State.readAt_header hm (off := 0x08) (by decide), State.readAt_header hm (off := 0x09) (by decide),
    State.le32_header hm (off := 0x0A) (by decide)]

end

/-- A check that fails before the header is read sees no byte (R67). -/
theorem State.firstError_congr_of_not_headerRead {s : State} (h : ¬s.headerRead) (m : Memory) (n : Depth) :
    State.firstError { s with mem := m } n = s.firstError n := by
  simp only [State.firstError]
  by_cases haddr : s.srcAddr = 0 ∨ s.fbAddr = 0
  · rw [if_pos haddr, if_pos haddr]
  · have hsize : s.srcSize.toNat < 22 := by
      simp only [State.headerRead, not_and, not_le] at h
      tauto
    rw [if_neg haddr, if_neg haddr, if_pos hsize, if_pos hsize]

theorem State.firstError_congr {s : State} {m : Memory} (h : s.headerRead → Memory.AgreeOn s.inHeader s.mem m)
    (n : Depth) : State.firstError { s with mem := m } n = s.firstError n := by
  by_cases hread : s.headerRead
  · exact State.firstError_congr_header (h hread) n
  · exact State.firstError_congr_of_not_headerRead hread m n

/-! ## A ready BLIT -/

/-- The header is part of the buffers. -/
theorem Memory.AgreeOn.header {s : State} {n : Depth} {m : Memory}
    (h : Memory.AgreeOn (s.blit n).inBuffers s.mem m) : Memory.AgreeOn s.inHeader s.mem m :=
  fun a ha hin => h a ha (.inl (inRange_mono (Nat.le_add_right 22 _) hin))

theorem State.blitReady_congr {s : State} {n : Depth} {m : Memory} (h : s.blitReady n)
    (hm : Memory.AgreeOn s.inHeader s.mem m) : State.blitReady { s with mem := m } n := by
  have hblit := State.blit_congr hm n
  obtain ⟨hvalid, himage, hfb, hmeet⟩ := h
  rw [State.blitReady, State.firstError_congr_header hm, hblit]
  exact ⟨hvalid, himage, hfb, hmeet⟩

/-- Settles O40: a ready BLIT keeps to its buffers, and its checks to the header. -/
theorem blitReadsOnlyItsBuffers : Obligations.BlitReadsOnlyItsBuffers := by
  unfold Obligations.BlitReadsOnlyItsBuffers
  intro s m n fast hwf hwf'
  refine ⟨fun hready hagree => ?_, fun hagree => State.firstError_congr hagree n⟩
  have hbuffers : Memory.AgreeOn (s.blit n).inBuffers s.mem m := hagree
  have hblit := State.blit_congr hbuffers.header n
  refine ⟨_, _, exec_blit_of_ready hready fast,
    exec_blit_of_ready (State.blitReady_congr hready hbuffers.header) fast, ?_, fun a ha hin => ?_⟩
  · simp only [State.afterBlit, hblit]
  · have hkeeps := (State.keeps_blitMemory hready.1).agree hwf hwf' hbuffers a ha (.inr hin)
    simpa only [State.afterBlit, State.blitMemory_eq, hblit] using hkeeps

end Sys2Proof.Machine
end

section
/-! The register window (R47), and a BLIT's geometry as the rules write it (R39 to R41, R64, R65, R77, R78). -/

namespace Sys2Proof.Machine

/-! ## The register window -/

theorem State.windowOffset_of_wellShaped {s : State} {addr : Word} {bits : Nat} (hbits : bits = 32)
    (halign : (addr - s.config.regBase).toNat % 4 = 0) (hlt : (addr - s.config.regBase).toNat < 0x100) :
    s.windowOffset addr bits = some (addr - s.config.regBase).toNat :=
  if_pos ⟨hbits, halign, hlt⟩

theorem State.windowOffset_of_misshapen {s : State} {addr : Word} {bits : Nat}
    (h : bits ≠ 32 ∨ (addr - s.config.regBase).toNat % 4 ≠ 0 ∨ 0x100 ≤ (addr - s.config.regBase).toNat) :
    s.windowOffset addr bits = none :=
  if_neg fun ⟨hbits, halign, hlt⟩ =>
    h.elim (· hbits) fun h => h.elim (· halign) fun hge => absurd hlt (Nat.not_lt.mpr hge)

/-- Settles O17: the shape decides whether the access has an offset, and a read at an offset only records its value. -/
theorem misshapenAccessesAreRefused : Obligations.MisshapenAccessesAreRefused := by
  unfold Obligations.MisshapenAccessesAreRefused
  intro s host addr w bits
  refine ⟨fun h => ?_, fun hbits halign hlt => ?_⟩
  · have hnone := State.windowOffset_of_misshapen h
    exact ⟨by simp only [State.regRead, hnone], by simp only [State.regWrite, hnone]⟩
  · exact ⟨_, State.regRead_of_windowOffset (State.windowOffset_of_wellShaped hbits halign hlt) host⟩

/-! ## Geometry -/

theorem Rotation.ofCode_eq_getD {k : Nat} (h : k ≤ 3) :
    Rotation.ofCode k = [Rotation.deg0, .deg90, .deg180, .deg270].getD k .deg270 := by
  interval_cases k <;> rfl

theorem State.blit_dstPitch (s : State) (n : Depth) : (s.blit n).dstPitch = s.nativePitch n.bits := by
  unfold Blit.dstPitch State.nativePitch
  rw [State.blit_depth, State.blit_nw]
  cases n <;> rfl

/-- The bytes of header and payload, by format (R65). -/
theorem State.blit_imageLen (s : State) (n : Depth) : (s.blit n).imageLen =
    22 + (if n = .one then le16 s.mem s.srcAddr 0x06 * ((le16 s.mem s.srcAddr 0x04 + 7) / 8)
      else 2 * (le16 s.mem s.srcAddr 0x04 * ((le16 s.mem s.srcAddr 0x06 + 7) / 8))) := by
  rw [Blit.imageLen, State.blit_depth, State.blit_sw, State.blit_sh]
  cases n with
  | one => rfl
  | two => exact congrArg (22 + ·) (Nat.mul_assoc _ _ _)

/-- A two-bit pixel is two bits of its byte, the higher first (R10). -/
theorem field2Of_eq_planeValue (v : Byte) {k : Nat} (hk : k < 4) :
    field2Of v k = planeValue (v.getLsbD (7 - 2 * k)) (v.getLsbD (6 - 2 * k)) := by
  have h7 : 6 - 2 * k + 1 = 7 - 2 * k := by omega
  have hplanes : ∀ b1 b2, (planeValue b1 b2).getLsbD 0 = b2 ∧ (planeValue b1 b2).getLsbD 1 = b1 := by decide
  apply BitVec.eq_of_getLsbD_eq
  intro i hi
  interval_cases i
  · rw [(hplanes _ _).1]; simp [field2Of]
  · rw [(hplanes _ _).2]; simp [field2Of, h7]

theorem toNat_planeValue (b1 b2 : Bool) : (planeValue b1 b2).toNat = 2 * b1.toNat + b2.toNat := by
  cases b1 <;> cases b2 <;> rfl

/-- Settles O51: each name of the geometry by the lemma that writes it out. -/
theorem blitGeometryIsAsWritten : Obligations.BlitGeometryIsAsWritten := by
  unfold Obligations.BlitGeometryIsAsWritten
  intro s n hrot
  refine ⟨Rotation.ofCode_eq_getD hrot, s.blit_sw n, s.blit_sh n, rfl, rfl, s.blit_nw n, s.blit_nh n, s.blit_dstPitch n,
    s.blit_fbLen n, s.blit_imageLen n, ?_, ?_, ?_, fun m nx ny hn => ?_, fun m nx ny hn => ?_⟩
  · rw [Blit.copyW, State.blit_sw, State.blit_lw]
  · rw [Blit.copyH, State.blit_sh, State.blit_lh]
  · simp only [Blit.covers, State.blit_sw, State.blit_sh, State.blit_lw, State.blit_lh, Bool.and_eq_true, decide_eq_true_eq]
  · subst hn
    rw [Blit.nativePix1, Blit.dstOff1, State.blit_dstPitch]
    rfl
  · subst hn
    rw [Blit.nativePix2, Blit.dstOff2, State.blit_dstPitch, dstSlot2,
      field2Of_eq_planeValue _ (Nat.mod_lt nx (by decide)), toNat_planeValue]
    rfl

end Sys2Proof.Machine
end

section
/-! The encoding family (R56 to R59) and the poll of the host-program notation (R61). -/

namespace Sys2Proof

/-! ## Words and commands -/

theorem decode_eq_ok {w : Word} {i : Instr} : decode w = .ok i ↔ CommandFields.ofWord w = i.fields :=
  decodeFields_eq_ok

/-- A command's fields are those of one word alone, its own pattern. -/
theorem CommandFields.ofWord_eq_fields_iff {w : Word} {i : Instr} :
    CommandFields.ofWord w = i.fields ↔ w = encode i := by
  rw [← CommandFields.ofWord_encode i]
  exact ⟨CommandFields.ofWord_inj, congrArg _⟩

/-- Settles O1: the decoder reads the three fields, and they determine the word. -/
theorem decodeInvertsEncode : Obligations.DecodeInvertsEncode := by
  unfold Obligations.DecodeInvertsEncode
  exact fun w i => decode_eq_ok.trans CommandFields.ofWord_eq_fields_iff

/-- Settles O3: each written pattern is the command's own. -/
theorem writtenPatternsDecode : Obligations.WrittenPatternsDecode := by
  unfold Obligations.WrittenPatternsDecode
  simp only [decodeInvertsEncode _ _]
  exact ⟨rfl, rfl, rfl, rfl⟩

/-! ## Words that are no command -/

/-- The third check of R59, on the number of OP. -/
theorem CommandFields.fastAllowed_eq_false_iff {c : CommandFields} :
    c.fastAllowed = false ↔ c.fast = true ∧ c.op.toNat ≠ 1 ∧ c.op.toNat ≠ 2 := by
  simp [CommandFields.fastAllowed, BitVec.toNat_eq, and_assoc]

/-- What fails one of the three checks of R59. -/
theorem CommandFields.wellFormed_eq_false_iff {c : CommandFields} :
    c.wellFormed = false ↔
      c.rsv ≠ 0 ∨ ¬(1 ≤ c.op.toNat ∧ c.op.toNat ≤ 7) ∨ (c.fast = true ∧ c.op.toNat ≠ 1 ∧ c.op.toNat ≠ 2) := by
  rw [CommandFields.wellFormed, Bool.and_eq_false_iff, Bool.and_eq_false_iff, fastAllowed_eq_false_iff, or_assoc,
    CommandFields.rsvClear, beq_eq_false_iff_ne, CommandFields.opAssigned, ← Bool.decide_and, decide_eq_false_iff_not]

theorem decode_error_iff {w : Word} :
    (∃ e, decode w = .error e) ↔ (CommandFields.ofWord w).wellFormed = false := by
  rw [← Bool.not_eq_true, decodeFields_isOk, ← decode]
  cases decode w <;> simp

end Sys2Proof

namespace Sys2Proof.Machine

theorem State.engineStep_of_decode {s : State} {i : Instr} (h : decode s.cmd = .ok i) : s.engineStep = exec i s := by
  simp only [State.engineStep, h]

theorem State.engineStep_of_not_wellFormed {s : State} (h : (CommandFields.ofWord s.cmd).wellFormed = false) :
    s.engineStep = .next (s.raiseError .illegalCommand) := by
  obtain ⟨e, he⟩ := decode_error_iff.mpr h
  simp only [State.engineStep, he]

/-- Settles O2: the illegal words are those that are not well formed, and a well-formed word has the fields of the
command it decodes to. -/
theorem everyWordIsARowOrIllegal : Obligations.EveryWordIsARowOrIllegal := by
  unfold Obligations.EveryWordIsARowOrIllegal
  intro s rsv op fast illegal
  have hill : (CommandFields.ofWord s.cmd).wellFormed = false ↔ illegal := CommandFields.wellFormed_eq_false_iff
  refine ⟨fun h => State.engineStep_of_not_wellFormed (hill.mpr h), fun h => ?_⟩
  obtain ⟨i, hi⟩ := decodeFields_isOk.mp (eq_true_of_ne_false (mt hill.mp h))
  have hfields : CommandFields.ofWord s.cmd = i.fields := decode_eq_ok.mp hi
  exact ⟨i, by rw [← hfields]; rfl, by rw [← hfields]; rfl, State.engineStep_of_decode hi⟩

/-! ## The poll (R61) -/

/-- One turn of a poll inside the window: the read, and the poll again while its value is not there. -/
theorem State.pollOnce_of_windowOffset {s : State} {addr : Word} {off : Nat} (ho : s.windowOffset addr 32 = some off)
    (host : Nat) (mask value : Word) :
    s.pollOnce host addr mask value =
      if s.readOffset off &&& mask = value then .next (s.portRead host addr off)
      else .next { s.portRead host addr off with events := .poll host addr mask value :: s.events } := by
  rw [State.pollOnce, ho]
  rfl

/-- Settles O19: the read is the port's, and the comparison decides whether the poll waits again. -/
theorem pollRepeatsUntilItsValue : Obligations.PollRepeatsUntilItsValue := by
  unfold Obligations.PollRepeatsUntilItsValue
  intro s host addr mask value off ho
  have hpoll := State.pollOnce_of_windowOffset ho host mask value
  exact ⟨s.portRead host addr off, State.regRead_of_windowOffset ho host,
    fun hv => hpoll.trans (if_pos hv), fun hv => hpoll.trans (if_neg hv)⟩

end Sys2Proof.Machine
end

section
/-! A BLIT that a check rejects (R66 to R76). -/

namespace Sys2Proof.Machine

/-- The header stops a command only where it is read and is not plain memory (R44, R46, R67). -/
theorem State.headerStop_eq_none {s : State} (h : s.headerRead → s.plain s.srcAddr 22 = true) :
    s.headerStop = none := by
  by_cases hread : s.headerRead
  · rw [State.headerStop_of_headerRead hread, State.accessStop_eq_none.mpr (h hread)]
  · obtain ⟨e, he⟩ := Option.ne_none_iff_exists'.mp (mt State.headerRead_iff.mpr hread)
    rw [State.headerStop, he]

theorem exec_blit_of_reject {s : State} {n : Depth} {e : ErrorCode} (h : s.admission n = .reject e) (fast : Bool) :
    exec (n.instr fast) s = .next (s.raiseError e) := by
  rw [exec_blit, State.runBlit, h]

/-- Settles O26: the claims' chain of checks is the model's list, and a rejected command only raises its error. -/
theorem blitReportsTheFirstFailingCheck : Obligations.BlitReportsTheFirstFailingCheck := by
  unfold Obligations.BlitReportsTheFirstFailingCheck
  intro s n fast e hplain he
  have hvalid : s.validate n = some e := (s.validate_eq_firstError n).trans he
  exact exec_blit_of_reject (State.admission_reject.mpr ⟨State.headerStop_eq_none hplain, hvalid⟩) fast

end Sys2Proof.Machine
end

section
/-! The logical-to-native transform (R80) and the converters as one pixel loop through it (R81). -/

namespace Sys2Proof.Machine

/-! ## The transform -/

/-- The native size and the transform at each rotation, in the display's own width and height (R39, R80). -/
theorem Blit.native_cases (b : Blit) :
    (b.rot = .deg0 ∧ b.nw = b.lw ∧ b.nh = b.lh ∧ ∀ x y, b.toNative x y = (x, y)) ∨
      (b.rot = .deg90 ∧ b.nw = b.lh ∧ b.nh = b.lw ∧ ∀ x y, b.toNative x y = (y, b.lw - 1 - x)) ∨
      (b.rot = .deg180 ∧ b.nw = b.lw ∧ b.nh = b.lh ∧ ∀ x y, b.toNative x y = (b.lw - 1 - x, b.lh - 1 - y)) ∨
      (b.rot = .deg270 ∧ b.nw = b.lh ∧ b.nh = b.lw ∧ ∀ x y, b.toNative x y = (b.lh - 1 - y, x)) := by
  cases hr : b.rot <;> simp [Blit.toNative, Blit.nw, Blit.nh, hr]

section
variable {b : Blit} {x y : Nat}

/-- The transform stays inside the native rectangle. -/
theorem Blit.toNative_lt (hx : x < b.lw) (hy : y < b.lh) :
    (b.toNative x y).1 < b.nw ∧ (b.toNative x y).2 < b.nh := by
  rcases b.native_cases with ⟨-, hnw, hnh, hT⟩ | ⟨-, hnw, hnh, hT⟩ | ⟨-, hnw, hnh, hT⟩ | ⟨-, hnw, hnh, hT⟩ <;>
    rw [hT, hnw, hnh] <;> dsimp only <;> omega

theorem Blit.toNative_inj {x' y' : Nat} (hx : x < b.lw) (hy : y < b.lh) (hx' : x' < b.lw) (hy' : y' < b.lh)
    (h : b.toNative x y = b.toNative x' y') : x = x' ∧ y = y' := by
  rcases b.native_cases with ⟨-, -, -, hT⟩ | ⟨-, -, -, hT⟩ | ⟨-, -, -, hT⟩ | ⟨-, -, -, hT⟩ <;>
    rw [hT, hT, Prod.mk.injEq] at h <;> omega

/-- Every native pixel has a logical one; each rotation is undone by its inverse. -/
theorem Blit.exists_toNative_eq {nx ny : Nat} (hx : nx < b.nw) (hy : ny < b.nh) :
    ∃ x y, x < b.lw ∧ y < b.lh ∧ b.toNative x y = (nx, ny) := by
  rcases b.native_cases with ⟨-, hnw, hnh, hT⟩ | ⟨-, hnw, hnh, hT⟩ | ⟨-, hnw, hnh, hT⟩ | ⟨-, hnw, hnh, hT⟩ <;>
    rw [hnw] at hx <;> rw [hnh] at hy <;> simp only [hT, Prod.mk.injEq]
  · exact ⟨nx, ny, hx, hy, rfl, rfl⟩
  · exact ⟨b.lw - 1 - ny, nx, by omega, hx, rfl, by omega⟩
  · exact ⟨b.lw - 1 - nx, b.lh - 1 - ny, by omega, by omega, by omega, by omega⟩
  · exact ⟨ny, b.lh - 1 - nx, hy, by omega, by omega, rfl⟩

/-- At 270° the groups of four native pixels, and the slots in a group, come in reverse. -/
theorem Blit.toNative_deg270_group (hr : b.rot = .deg270) (h4 : b.nw % 4 = 0) (hy : y < b.lh) :
    (b.toNative x y).1 / 4 = b.nw / 4 - 1 - y / 4 ∧ (b.toNative x y).1 % 4 = 3 - y % 4 := by
  have hnw : b.nw = b.lh := by simp only [Blit.nw, hr]
  simp only [Blit.toNative, hr, hnw] at h4 ⊢
  omega

end

/-- Settles O32: each clause by its lemma. -/
theorem transformIsOneToOne : Obligations.TransformIsOneToOne := by
  unfold Obligations.TransformIsOneToOne
  refine fun b => ⟨fun x y => ?_, fun _ _ => Blit.toNative_lt, fun _ _ _ _ => Blit.toNative_inj,
    fun _ _ => Blit.exists_toNative_eq, fun hr h4 _ _ => Blit.toNative_deg270_group hr h4⟩
  rcases b.native_cases with ⟨hr, -, -, hT⟩ | ⟨hr, -, -, hT⟩ | ⟨hr, -, -, hT⟩ | ⟨hr, -, -, hT⟩ <;> rw [hT, hr]

/-! ## The pixel loop through the transform -/

theorem Blit.forPixels_congr {b : Blit} {f g : Nat → Nat → Memory → Memory} {m : Memory}
    (h : ∀ x y, x < b.copyW → y < b.copyH → ∀ m, f x y m = g x y m) : b.forPixels f m = b.forPixels g m :=
  forRange_congr fun y hy _ => forRange_congr fun x hx => h x y hx hy

/-- The 1bpp loop: native pixel `T(x, y)` becomes source pixel `(x, y)` (R81). -/
def Blit.loop1 (b : Blit) : Memory → Memory := b.forPixels fun x y m =>
  m.setBit b.fb (b.dstOff1 (b.toNative x y).1 (b.toNative x y).2) (dstBit1 (b.toNative x y).1) (b.srcPix1 m x y)

/-- The 2bpp loop: native pixel `T(x, y)` becomes 3 minus source value `(x, y)` (R81, R104). -/
def Blit.loop2 (b : Blit) : Memory → Memory := b.forPixels fun x y m =>
  m.setField2 b.fb (b.dstOff2 (b.toNative x y).1 (b.toNative x y).2) (dstSlot2 (b.toNative x y).1)
    (b.nativeOfSrc2 m x y)

/-- The converter of the blit's rotation (R94 to R97). -/
def Blit.convert1 (b : Blit) : Memory → Memory :=
  match b.rot with
  | .deg0 => b.convert1Deg0
  | .deg90 => b.convert1Deg90
  | .deg180 => b.convert1Deg180
  | .deg270 => b.convert1Deg270

/-- The converter of the blit's rotation (R100 to R103). -/
def Blit.convert2 (b : Blit) : Memory → Memory :=
  match b.rot with
  | .deg0 => b.convert2Deg0
  | .deg90 => b.convert2Deg90
  | .deg180 => b.convert2Deg180
  | .deg270 => b.convert2Deg270

theorem Blit.convert1_eq_loop1 (b : Blit) (m : Memory) : b.convert1 m = b.loop1 m := by
  rcases b.native_cases with ⟨hr, -, -, hT⟩ | ⟨hr, -, -, hT⟩ | ⟨hr, -, -, hT⟩ | ⟨hr, -, -, hT⟩ <;>
    simp only [Blit.convert1, Blit.loop1, hr, hT] <;> rfl

/-- The 270° converter writes the reversed groups and slots; the others write the transform as it stands. -/
theorem Blit.convert2_eq_loop2 {b : Blit} (h4 : b.rot = .deg270 → b.nw % 4 = 0) (m : Memory) :
    b.convert2 m = b.loop2 m := by
  rcases b.native_cases with ⟨hr, -, -, hT⟩ | ⟨hr, -, -, hT⟩ | ⟨hr, -, -, hT⟩ | ⟨hr, hnw, -, hT⟩
  case inr.inr.inr =>
    simp only [Blit.convert2, Blit.loop2, hr]
    refine Blit.forPixels_congr fun x y _ hy m => ?_
    obtain ⟨hgroup, hslot⟩ := Blit.toNative_deg270_group (x := x) hr (h4 hr) (Nat.lt_min.mp hy).2
    rw [Blit.dstOff2, dstSlot2, hgroup, hslot, hT, hnw]
  all_goals simp only [Blit.convert2, Blit.loop2, hr, hT]; rfl

/-- Settles O33: the two loops are the statement's, `3 - v` being the native value. -/
theorem convertersFollowTheTransform : Obligations.ConvertersFollowTheTransform := by
  unfold Obligations.ConvertersFollowTheTransform
  intro b m one two
  have hone : b.convert1 m = one := b.convert1_eq_loop1 m
  have htwo : (b.rot = .deg270 → b.nw % 4 = 0) → b.convert2 m = two := fun h4 => Blit.convert2_eq_loop2 h4 m
  unfold Blit.convert1 at hone
  unfold Blit.convert2 at htwo
  cases hr : b.rot <;> simp only [hr] at hone htwo ⊢
  case deg270 => exact ⟨hone, fun h4 => htwo fun _ => h4⟩
  all_goals exact ⟨hone, htwo nofun⟩

end Sys2Proof.Machine
end

section
/-! A ready BLIT: its STATUS, its one request and its framebuffer (R83, R92, R99, R112, R45). -/

namespace Sys2Proof.Machine

/-- A ready BLIT writes its framebuffer alone (R45). -/
theorem State.blitMemory_frame {s : State} {n : Depth} (hm : s.mem.wf) (h : s.firstError n = none) :
    Memory.AgreeOn (fun a => ¬s.inFramebuffer n a) s.mem (s.blitMemory n) := by
  rw [State.blitMemory_eq]
  exact (State.keeps_blitMemory h).frame hm

theorem Rotation.ofCode_eq_deg0_iff {r : BitVec 8} : Rotation.ofCode r.toNat = .deg0 ↔ r = 0 := by
  revert r; decide

/-- The fast path's condition on the registers and the header (R93). -/
theorem State.takesFastPath_one (s : State) : Depth.one.takesFastPath (s.blit .one) =
    (decide (s.dispCfg.rot = 0) && decide ((s.blit .one).sw = (s.blit .one).lw) &&
      decide ((s.blit .one).sh = (s.blit .one).lh)) := by
  simp only [Depth.takesFastPath, Blit.isFullscreen, State.blit_rot, Rotation.ofCode_eq_deg0_iff]

/-- Settles O34: a ready BLIT1's answer, with the fast path's condition written out. -/
theorem blit1Completes : Obligations.Blit1Completes := by
  unfold Obligations.Blit1Completes
  intro s fast hm hready b
  refine ⟨s.blitMemory .one, ?_, State.blitMemory_frame hm hready.1⟩
  rw [← State.takesFastPath_one]
  exact exec_blit_of_ready hready fast

/-- Settles O35: a ready BLIT2's answer; it never takes the fast path. -/
theorem blit2Completes : Obligations.Blit2Completes := by
  unfold Obligations.Blit2Completes
  intro s fast hm hready b
  refine ⟨s.blitMemory .two, ?_, State.blitMemory_frame hm hready.1⟩
  rw [← Bool.or_false s.status.fastpath]
  exact exec_blit_of_ready hready fast

end Sys2Proof.Machine
end

section
/-! The header's checksum bytes (R64): no check reads it, and no path does. -/

namespace Sys2Proof.Machine

/-! ## The header's fields -/

section
variable {s : State} {m : Memory} (hm : ∀ off, off < 14 → m.readAt s.srcAddr off = s.mem.readAt s.srcAddr off)
include hm

theorem State.le16_fields {off : Nat} (h : off + 1 < 14) : le16 m s.srcAddr off = le16 s.mem s.srcAddr off := by
  simp only [le16, hm _ h, hm off (by omega)]

theorem State.le32_fields {off : Nat} (h : off + 3 < 14) : le32 m s.srcAddr off = le32 s.mem s.srcAddr off := by
  simp only [le32, hm _ h, hm off (by omega), hm (off + 1) (by omega), hm (off + 2) (by omega)]

/-- The bytes before the checksum bytes decide a BLIT's geometry. -/
theorem State.blit_congr_fields (n : Depth) : State.blit { s with mem := m } n = s.blit n := by
  simp (disch := decide) only [State.blit, State.header, Memory.readLE_two, State.le16_fields hm]

/-- The bytes before the checksum bytes decide the checks. -/
theorem State.firstError_congr_fields (n : Depth) : State.firstError { s with mem := m } n = s.firstError n := by
  simp only [State.firstError, State.le32_fields hm (off := 0x00) (by decide),
    State.le16_fields hm (off := 0x04) (by decide), State.le16_fields hm (off := 0x06) (by decide),
    hm 0x08 (by decide), hm 0x09 (by decide), State.le32_fields hm (off := 0x0A) (by decide)]

theorem State.blitReady_congr_fields {n : Depth} (h : s.blitReady n) : State.blitReady { s with mem := m } n := by
  obtain ⟨hvalid, himage, hfb, hmeet⟩ := h
  rw [State.blitReady, State.firstError_congr_fields hm, State.blit_congr_fields hm]
  exact ⟨hvalid, himage, hfb, hmeet⟩

end

/-! ## The clear and the paths read payload and framebuffer alone

`Blit.Keeps` (R45) lets a path read the header too; that the checksum is ignored needs this smaller set of bytes. -/

/-- The bytes of the payload and of the framebuffer. -/
def Blit.inWorkset (b : Blit) (a : Nat) : Prop :=
  (∃ off, Config.hdrSize + off < b.imageLen ∧ busAddr b.src (Config.hdrSize + off) = a) ∨ b.inFb a

/-- A change of memory that writes the framebuffer alone and reads payload and framebuffer alone. -/
abbrev Blit.KeepsWorkset (b : Blit) (f : Memory → Memory) : Prop := Confined b.inFb b.inWorkset f

/-- A value that is read from payload and framebuffer alone. -/
abbrev Blit.ReadsWorkset {β : Type} (b : Blit) (val : Memory → β) : Prop :=
  ∀ m m', Memory.AgreeOn b.inWorkset m m' → val m' = val m

section
variable {b : Blit}

theorem Blit.readsWorkset_payload {off : Nat} (h : Config.hdrSize + off < b.imageLen) :
    b.ReadsWorkset fun m => m.readAt b.src (Config.hdrSize + off) :=
  fun _ _ hm => hm.readAt (.inl ⟨off, h, rfl⟩)

theorem Blit.readsWorkset_srcPix1 (hd : b.depth = .one) {x y : Nat} (hx : x < b.sw) (hy : y < b.sh) :
    b.ReadsWorkset fun m => b.srcPix1 m x y := by
  have hoff : Config.hdrSize + (y * b.src1Pitch + x / 8) < b.imageLen := by
    simp only [Blit.imageLen, hd, Depth.expSize]
    exact Nat.add_lt_add_left (rowByte_lt hy (div_lt_ceilDiv hx)) _
  intro m m' h
  simp only [Blit.srcPix1, Nat.add_assoc, Blit.readsWorkset_payload hoff m m' h]

/-- The two planes of a 2bpp payload, one after the other (R41). -/
theorem Blit.readsWorkset_planeBit (hd : b.depth = .two) {plane x y : Nat} (hp : plane ≤ b.planeSize) (hx : x < b.sw)
    (hy : y < b.sh) : b.ReadsWorkset fun m => b.planeBit m plane x y := by
  have hoff : Config.hdrSize + (plane + (x * b.planePitch + y / 8)) < b.imageLen := by
    have hbyte := rowByte_lt hx (div_lt_ceilDiv hy)
    simp only [Blit.imageLen, hd, Depth.expSize, Blit.planeSize, Blit.planePitch, Nat.mul_assoc] at hp ⊢
    omega
  intro m m' h
  simp only [Blit.planeBit, Nat.add_assoc, Blit.readsWorkset_payload hoff m m' h]

theorem Blit.readsWorkset_nativeOfSrc2 (hd : b.depth = .two) {x y : Nat} (hx : x < b.sw) (hy : y < b.sh) :
    b.ReadsWorkset fun m => b.nativeOfSrc2 m x y := fun m m' h => by
  simp only [Blit.nativeOfSrc2, Blit.srcVal2,
    Blit.readsWorkset_planeBit hd (Nat.zero_le _) hx hy m m' h,
    Blit.readsWorkset_planeBit hd (Nat.le_refl _) hx hy m m' h]

/-- A read-modify-write of one framebuffer byte by a value from the payload (R43). -/
theorem Blit.keepsWorkset_update {β : Type} {off : Nat} {src : Memory → β} (upd : Byte → β → Byte)
    (hoff : off < b.fbLen) (hsrc : b.ReadsWorkset src) :
    b.KeepsWorkset fun m => m.writeAt b.fb off (upd (m.readAt b.fb off) (src m)) :=
  Confined.writeAt (inRange_busAddr hoff) fun m m' h =>
    congrArg₂ upd (h.readAt (.inr (inRange_busAddr hoff))) (hsrc m m' h)

theorem Blit.keepsWorkset_fill : b.KeepsWorkset b.fill :=
  Confined.forRange fun _ hi => Confined.writeAt (inRange_busAddr hi) fun _ _ _ => rfl

theorem Blit.keepsWorkset_bulkCopy (hd : b.depth = .one) (hf : b.isFullscreen = true) :
    b.KeepsWorkset b.bulkCopy := by
  obtain ⟨hlen, himage, -, -⟩ := Blit.fullscreen_lens hd hf
  exact Confined.forRange fun i hi => Confined.writeAt (inRange_busAddr (hlen ▸ hi))
    (Blit.readsWorkset_payload (by omega))

/-- The padding fix reads and writes the last byte of each native row (R93). -/
theorem Blit.keepsWorkset_fixPadding (hd : b.depth = .one) (hf : b.isFullscreen = true) :
    b.KeepsWorkset b.fixPadding := by
  obtain ⟨-, -, hnw, hnh⟩ := Blit.fullscreen_lens hd hf
  unfold Blit.fixPadding
  split
  case isTrue => exact Confined.id
  case isFalse h8 =>
    have hpitch : b.nw / 8 < b.dstPitch := by
      simp only [Blit.dstPitch, hd, hnw, ceilDiv]
      omega
    refine Confined.forRange fun ny hny => ?_
    have hlast := Blit.fbByte_lt (c := b.dstPitch - 1) (by omega) (hnh ▸ hny)
    rw [← Nat.add_sub_assoc (by omega)] at hlast
    exact Blit.keepsWorkset_update (src := fun _ => mask1Byte (b.lw % 8)) (· &&& ·) hlast fun _ _ _ => rfl

theorem Blit.keepsWorkset_loop1 (hd : b.depth = .one) : b.KeepsWorkset b.loop1 :=
  Confined.forPixels fun x y hx hy => by
    obtain ⟨hsw, hlw⟩ := Nat.lt_min.mp hx
    obtain ⟨hsh, hlh⟩ := Nat.lt_min.mp hy
    obtain ⟨hnx, hny⟩ := Blit.toNative_lt hlw hlh
    exact Blit.keepsWorkset_update (setBitOf · (dstBit1 (b.toNative x y).1))
      (Blit.fbByte_lt (Blit.col1_lt_dstPitch hd hnx) hny) (Blit.readsWorkset_srcPix1 hd hsw hsh)

theorem Blit.keepsWorkset_loop2 (hd : b.depth = .two) (h4 : b.nw % 4 = 0) : b.KeepsWorkset b.loop2 :=
  Confined.forPixels fun x y hx hy => by
    obtain ⟨hsw, hlw⟩ := Nat.lt_min.mp hx
    obtain ⟨hsh, hlh⟩ := Nat.lt_min.mp hy
    obtain ⟨hnx, hny⟩ := Blit.toNative_lt hlw hlh
    exact Blit.keepsWorkset_update (setField2Of · (dstSlot2 (b.toNative x y).1))
      (Blit.fbByte_lt (Blit.col2_lt_dstPitch hd h4 hnx) hny) (Blit.readsWorkset_nativeOfSrc2 hd hsw hsh)

end

/-- BLIT1's path: the fast path for a fullscreen image, else its converter (R82). -/
theorem Depth.pathMemory_one (b : Blit) :
    Depth.one.pathMemory b = if b.isFullscreen = true then b.fastPath else b.loop1 := by
  rw [← funext b.convert1_eq_loop1]
  cases hf : b.isFullscreen <;> cases hr : b.rot <;> simp [Depth.pathMemory, Blit.convert1, hf, hr]

/-- BLIT2's path: its converter (R82). -/
theorem Depth.pathMemory_two {b : Blit} (h4 : b.nw % 4 = 0) : Depth.two.pathMemory b = b.loop2 := by
  rw [← funext (Blit.convert2_eq_loop2 fun _ => h4)]
  cases hr : b.rot <;> simp only [Depth.pathMemory, Blit.convert2, hr]

/-- A BLIT's clear and path read payload and framebuffer alone (R64, R79, R81, R93). -/
theorem Depth.keepsWorkset_blitMemory {n : Depth} {b : Blit} (hd : b.depth = n) (h4 : n = .two → b.nw % 4 = 0) :
    b.KeepsWorkset (n.blitMemory b) := by
  have hclear : b.KeepsWorkset fun m => if b.covers then m else b.fill m := by
    split
    · exact Confined.id
    · exact Blit.keepsWorkset_fill
  refine Confined.comp (g := n.pathMemory b) ?_ hclear
  cases n with
  | one =>
    rw [Depth.pathMemory_one]
    split
    · next hf => exact (Blit.keepsWorkset_fixPadding hd hf).comp (Blit.keepsWorkset_bulkCopy hd hf)
    · exact Blit.keepsWorkset_loop1 hd
  | two =>
    rw [Depth.pathMemory_two (h4 rfl)]
    exact Blit.keepsWorkset_loop2 hd (h4 rfl)

/-! ## Writing the checksum bytes -/

theorem le16_lt (m : Memory) (base : Word) (off : Nat) : le16 m base off < 2 ^ 16 := by
  unfold le16
  omega

/-- Header and payload are shorter than the address space, so no two of their bytes are one. -/
theorem State.blit_imageLen_lt (s : State) (n : Depth) : (s.blit n).imageLen < 2 ^ 32 := by
  have hsw := le16_lt s.mem s.srcAddr 0x04
  have hsh := le16_lt s.mem s.srcAddr 0x06
  rw [State.blit_imageLen]
  generalize le16 s.mem s.srcAddr 0x04 = sw at hsw ⊢
  generalize le16 s.mem s.srcAddr 0x06 = sh at hsh ⊢
  have hone : sh * ((sw + 7) / 8) ≤ 65535 * 8192 := Nat.mul_le_mul (by omega) (by omega)
  have htwo : sw * ((sh + 7) / 8) ≤ 65535 * 8192 := Nat.mul_le_mul (by omega) (by omega)
  split <;> omega

section
variable {s : State} {i : Nat} (hm : s.mem.wf) (hi : i < 8) (v : Byte)
include hm hi

/-- The header fields before the checksum bytes are apart from it. -/
theorem State.readAt_writeChecksum_fields {off : Nat} (hoff : off < 14) :
    (s.mem.writeAt s.srcAddr (0x0E + i) v).readAt s.srcAddr off = s.mem.readAt s.srcAddr off := by
  have hne : busAddr s.srcAddr (0x0E + i) ≠ busAddr s.srcAddr off := fun h => by
    have := busAddr_inj (by omega) (by omega) h
    omega
  rw [Memory.readAt, Memory.read_writeAt hm, if_neg hne, Memory.readAt]

/-- So are the payload, which follows it, and the framebuffer of a BLIT whose buffers share no byte. -/
theorem State.agreeOn_workset_writeChecksum {n : Depth}
    (h : rangesMeet s.srcAddr (s.blit n).imageLen s.fbAddr (s.blit n).fbLen = false) :
    Memory.AgreeOn (s.blit n).inWorkset s.mem (s.mem.writeAt s.srcAddr (0x0E + i) v) := by
  intro a ha hin
  have hne : busAddr s.srcAddr (0x0E + i) ≠ a := by
    rintro rfl
    rcases hin with ⟨off, hoff, heq⟩ | hfb
    · have hlen := s.blit_imageLen_lt n
      have := busAddr_inj (by omega) (by omega) heq
      simp only [Config.hdrSize] at this
      omega
    · have himage : s.inImage n (busAddr s.srcAddr (0x0E + i)) :=
        inRange_busAddr (Nat.lt_of_lt_of_le (by omega) (Nat.le_add_right 22 _))
      exact Bool.false_ne_true (h.symm.trans (rangesMeet_iff.mpr ⟨_, ha, himage, hfb⟩))
  rw [Memory.read_writeAt hm, if_neg hne]

end

/-- Settles O42: the checks read the fields before the checksum, and a ready BLIT the payload after it. -/
theorem checksumPrefixIsIgnored : Obligations.ChecksumPrefixIsIgnored := by
  unfold Obligations.ChecksumPrefixIsIgnored
  intro s n fast i v hm hi
  have hfields := fun off => State.readAt_writeChecksum_fields hm hi v (off := off)
  refine ⟨State.firstError_congr_fields hfields n, fun hready => ?_⟩
  have hblit := State.blit_congr_fields hfields n
  refine ⟨_, _, exec_blit_of_ready hready fast,
    exec_blit_of_ready (State.blitReady_congr_fields hfields hready) fast, ?_, fun a ha hin => ?_⟩
  · simp only [State.afterBlit, hblit]
  · obtain ⟨hvalid, -, -, happart⟩ := hready
    obtain ⟨-, -, h4⟩ := State.geometry_of_firstError hvalid
    have hkeeps := (Depth.keepsWorkset_blitMemory (State.blit_depth s n) h4).agree hm (Memory.wf_writeAt hm _ _ _)
      (State.agreeOn_workset_writeChecksum hm hi v happart) a ha (.inr hin)
    simpa only [State.afterBlit, State.blitMemory_eq, hblit] using hkeeps

end Sys2Proof.Machine
end

section
/-! The primitives family (41_primitives.md, R86 to R91): what each command answers, and the bits of its result. -/

namespace Sys2Proof

/-- A command's own pattern decodes to it (R58). -/
theorem decode_encode (i : Instr) : decode (encode i) = .ok i := (decodeInvertsEncode _ i).mpr rfl

end Sys2Proof

namespace Sys2Proof.Machine

/-! ## What each command answers (R86) -/

theorem exec_rev8 (s : State) : exec .rev8 s = .next (s.finishOut0 (rev8Byte s.byteOperand)) := rfl

theorem exec_xpose8 (s : State) : exec .xpose8 s = .next (State.complete { s with
    out0 := (xpose8Word s.wideOperand).extractLsb' 0 32, out1 := (xpose8Word s.wideOperand).extractLsb' 32 32 }) := rfl

theorem exec_mask1_of_le {s : State} (h : s.in0.toNat ≤ 8) :
    exec .mask1 s = .next (s.finishOut0 (mask1Byte s.in0.toNat)) :=
  if_neg (Nat.not_lt.mpr h)

theorem exec_mask1_of_gt {s : State} (h : 8 < s.in0.toNat) :
    exec .mask1 s = .next (s.raiseError .invalidArgument) :=
  if_pos h

theorem exec_mask2_of_le {s : State} (h : s.in0.toNat ≤ 4) :
    exec .mask2 s = .next (s.finishOut0 (mask2Byte s.in0.toNat)) :=
  if_neg (Nat.not_lt.mpr h)

theorem exec_mask2_of_gt {s : State} (h : 4 < s.in0.toNat) :
    exec .mask2 s = .next (s.raiseError .invalidArgument) :=
  if_pos h

theorem exec_lut2 (s : State) : exec .lut2 s = .next (s.finishOut0 (lut s.byteOperand)) := rfl

/-! ## Operands and results as bits -/

/-- OUT0 holds the bits of a result byte, with nothing above them. -/
theorem getLsbD_byte_setWidth (b : Byte) (i : Nat) : (b.setWidth 32).getLsbD i = b.getLsbD i := rfl

theorem getLsbD_byte_setWidth_of_ge (b : Byte) {i : Nat} (h : 8 ≤ i) : (b.setWidth 32).getLsbD i = false := by
  rw [getLsbD_byte_setWidth, BitVec.getLsbD_of_ge b i h]

theorem State.getLsbD_byteOperand (s : State) {i : Nat} (h : i < 8) :
    s.byteOperand.getLsbD i = s.in0.getLsbD i := by
  simp [State.byteOperand, h]

/-- OUT1 ++ OUT0 is XPOSE8's word again (R23). -/
theorem append_halves (x : BitVec 64) : (x.extractLsb' 32 32 ++ x.extractLsb' 0 32 : BitVec 64) = x :=
  (BitVec.extractLsb'_append_extractLsb'_eq_extractLsb' rfl).trans BitVec.extractLsb'_eq_self

/-! ## The LUT's pixels (R29) -/

/-- The four pixels of an entry stand side by side. -/
theorem field2Of_lut (i : Byte) {k : Nat} (hk : k < 4) : field2Of (lut i) k = lutPixel i k := by
  apply BitVec.eq_of_getLsbD_eq
  intro j hj
  interval_cases k <;> interval_cases j <;> simp [field2Of, lut]

theorem toNat_nativeValue (v : BitVec 2) : (nativeValue v).toNat = 3 - v.toNat := by
  revert v; decide

theorem nativeValue_planeValue_inj {b1 b2 c1 c2 : Bool} :
    nativeValue (planeValue b1 b2) = nativeValue (planeValue c1 c2) → b1 = c1 ∧ b2 = c2 := by
  revert b1 b2 c1 c2; decide

/-- Entries with the same pixels have the same index: pixel `k` holds the index's bits `7 - k` and `3 - k`. -/
theorem lut_inj {i j : Byte} (h : lut i = lut j) : i = j := by
  have hbits : ∀ k, k < 4 → i.getLsbD (7 - k) = j.getLsbD (7 - k) ∧ i.getLsbD (3 - k) = j.getLsbD (3 - k) :=
    fun k hk => nativeValue_planeValue_inj (by
      rw [← lutPixel, ← lutPixel, ← field2Of_lut i hk, ← field2Of_lut j hk, h])
  apply BitVec.eq_of_getLsbD_eq
  intro b hb
  by_cases hlow : b < 4
  · obtain ⟨-, h3⟩ := hbits (3 - b) (by omega)
    rwa [show 3 - (3 - b) = b by omega] at h3
  · obtain ⟨h7, -⟩ := hbits (7 - b) (by omega)
    rwa [show 7 - (7 - b) = b by omega] at h7

/-- Pixel `k` of LUT2's result, on IN0's bits (R91). -/
theorem State.toNat_lut2_pixel (s : State) {k : Nat} (hk : k < 4) :
    (((lut s.byteOperand).setWidth 32 : Word).extractLsb' (6 - 2 * k) 2).toNat =
      3 - (2 * (s.in0.getLsbD (7 - k)).toNat + (s.in0.getLsbD (3 - k)).toNat) := by
  have hfield : ((lut s.byteOperand).setWidth 32 : Word).extractLsb' (6 - 2 * k) 2 =
      field2Of (lut s.byteOperand) k := rfl
  rw [hfield, field2Of_lut _ hk, lutPixel, toNat_nativeValue, toNat_planeValue, State.getLsbD_byteOperand s (by omega),
    State.getLsbD_byteOperand s (by omega)]

/-! ## The statements -/

/-- Settles O20: bit `i` of the result byte is bit `7 - i` of IN0's low byte. -/
theorem rev8ReversesTheByte : Obligations.Rev8ReversesTheByte := by
  unfold Obligations.Rev8ReversesTheByte
  refine ⟨decode_encode .rev8, fun s => ⟨_, exec_rev8 s, fun i hi => ?_, fun i => getLsbD_byte_setWidth_of_ge _⟩⟩
  rw [getLsbD_byte_setWidth, getLsbD_rev8Byte _ hi, State.getLsbD_byteOperand s (by omega)]

/-- Settles O21: the two halves of the result make the transposed word again. -/
theorem xpose8TransposesTheMatrix : Obligations.Xpose8TransposesTheMatrix := by
  unfold Obligations.Xpose8TransposesTheMatrix
  refine ⟨decode_encode .xpose8, fun s => ⟨_, _, exec_xpose8 s, fun r c hr hc => ?_⟩⟩
  rw [append_halves, getLsbD_xpose8Word _ hr hc, State.wideOperand]

/-- Settles O23: the count decides between the mask and the error. -/
theorem mask1SelectsTheFirstPixels : Obligations.Mask1SelectsTheFirstPixels := by
  unfold Obligations.Mask1SelectsTheFirstPixels
  refine ⟨decode_encode .mask1, fun s => ⟨fun h => ⟨_, exec_mask1_of_le h, fun i => ?_⟩, exec_mask1_of_gt⟩⟩
  rw [getLsbD_byte_setWidth, mask1Byte, getLsbD_highMask h]

/-- Settles O24: the count decides between the mask of twice as many bits and the error. -/
theorem mask2SelectsTheFirstPixels : Obligations.Mask2SelectsTheFirstPixels := by
  unfold Obligations.Mask2SelectsTheFirstPixels
  refine ⟨decode_encode .mask2, fun s => ⟨fun h => ⟨_, exec_mask2_of_le h, fun i => ?_⟩, exec_mask2_of_gt⟩⟩
  rw [getLsbD_byte_setWidth, mask2Byte, getLsbD_highMask (by omega)]

/-- Settles O25: each pixel of the entry for IN0's low byte, and the entries' pixels give back their index. -/
theorem lut2MergesThePlanes : Obligations.Lut2MergesThePlanes := by
  unfold Obligations.Lut2MergesThePlanes
  exact ⟨decode_encode .lut2,
    fun s => ⟨_, exec_lut2 s, fun _ => s.toNat_lut2_pixel, fun _ => getLsbD_byte_setWidth_of_ge _⟩, fun _ _ => lut_inj⟩

end Sys2Proof.Machine
end

section
/-! The framebuffer after BLIT1, bit by bit (R93 to R98): what the clear, the converters' loop and the fast path each
leave of it. -/

namespace Sys2Proof.Machine

/-! ## The image is apart from the framebuffer (R52) -/

/-- Header and payload share no byte with the framebuffer (R52). -/
def Blit.Apart (b : Blit) : Prop := rangesMeet b.src b.imageLen b.fb b.fbLen = false

theorem State.blitReady.apart {s : State} {n : Depth} (h : s.blitReady n) : (s.blit n).Apart := by
  obtain ⟨-, -, -, happart⟩ := h
  exact happart

/-- The framebuffer is shorter than the address space, so no two of its bytes are one. -/
theorem State.blit_fbLen_lt (s : State) (n : Depth) : (s.blit n).fbLen < 2 ^ 32 := by
  have hlw := s.dispDim.lw.isLt
  have hlh := s.dispDim.lh.isLt
  have hnw : (s.blit n).nw ≤ 65535 := by
    rw [State.blit_nw, State.nativeWidth]
    split <;> omega
  have hnh : (s.blit n).nh ≤ 65535 := by
    rw [State.blit_nh, State.nativeHeight]
    split <;> omega
  have hpitch : (s.blit n).dstPitch ≤ 16383 := by
    cases n <;> simp only [Blit.dstPitch, State.blit_depth, ceilDiv] <;> omega
  have := Nat.mul_le_mul hpitch hnh
  rw [Blit.fbLen]
  omega

section
variable {b : Blit} {m m' : Memory}

/-- No byte of header or payload is a byte of the framebuffer. -/
theorem Blit.Apart.not_inFb (h : b.Apart) {off : Nat} (hoff : off < b.imageLen) : ¬b.inFb (busAddr b.src off) :=
  fun hfb => Bool.false_ne_true (h.symm.trans (rangesMeet_iff.mpr ⟨_, busAddr_lt _ _, inRange_busAddr hoff, hfb⟩))

/-- The byte of source pixel `(x, y)` lies in the payload (R40). -/
theorem Blit.srcByte1_lt (hd : b.depth = .one) {x y : Nat} (hx : x < b.sw) (hy : y < b.sh) :
    Config.hdrSize + y * b.src1Pitch + x / 8 < b.imageLen := by
  simp only [Blit.imageLen, hd, Depth.expSize, Nat.add_assoc]
  exact Nat.add_lt_add_left (rowByte_lt hy (div_lt_ceilDiv hx)) _

/-- What changes the framebuffer alone leaves the source pixels. -/
theorem Blit.srcPix1_of_agreeOn (hd : b.depth = .one) (h : b.Apart) (hm : Memory.AgreeOn (fun a => ¬b.inFb a) m m')
    {x y : Nat} (hx : x < b.sw) (hy : y < b.sh) : b.srcPix1 m' x y = b.srcPix1 m x y := by
  rw [Blit.srcPix1, hm.readAt (h.not_inFb (Blit.srcByte1_lt hd hx hy)), Blit.srcPix1]

/-! ## Native pixels and the framebuffer's bits (R39, R40) -/

/-- Rows of `p` bytes do not share bytes. -/
theorem rowByte_inj {p c c' y y' : Nat} (hc : c < p) (hc' : c' < p) (h : y * p + c = y' * p + c') :
    y = y' ∧ c = c' := by
  have hrow : ∀ z d, d < p → (z * p + d) / p = z := fun z d hd => by
    rw [Nat.mul_comm, Nat.mul_add_div (by omega), Nat.div_eq_of_lt hd, Nat.add_zero]
  have hy : y = y' := by rw [← hrow y c hc, h, hrow y' c' hc']
  subst hy
  exact ⟨rfl, Nat.add_left_cancel h⟩

/-- Two places of a framebuffer row's bytes, padding included, that are one bit are one place. -/
theorem Blit.bit1_inj {nx ny nx' ny' : Nat} (hx : nx / 8 < b.dstPitch) (hx' : nx' / 8 < b.dstPitch)
    (hoff : b.dstOff1 nx ny = b.dstOff1 nx' ny') (hbit : dstBit1 nx = dstBit1 nx') : nx = nx' ∧ ny = ny' := by
  obtain ⟨hny, hcol⟩ := rowByte_inj hx hx' hoff
  simp only [dstBit1] at hbit
  exact ⟨by omega, hny⟩

/-- Every bit of the framebuffer has a place in a row, in its pixels or in its padding. -/
theorem Blit.exists_bit1 {o j : Nat} (ho : o < b.fbLen) (hj : j < 8) :
    ∃ nx ny, nx / 8 < b.dstPitch ∧ ny < b.nh ∧ b.dstOff1 nx ny = o ∧ dstBit1 nx = j := by
  have hpos : 0 < b.dstPitch := Nat.pos_of_ne_zero fun h0 => by simp [Blit.fbLen, h0] at ho
  have hcol := Nat.mod_lt o hpos
  have hx : (8 * (o % b.dstPitch) + (7 - j)) / 8 = o % b.dstPitch := by omega
  refine ⟨8 * (o % b.dstPitch) + (7 - j), o / b.dstPitch, by rwa [hx], Nat.div_lt_of_lt_mul ho, ?_, ?_⟩
  · rw [Blit.dstOff1, hx, Nat.mul_comm]
    exact Nat.div_add_mod o b.dstPitch
  · simp only [dstBit1]
    omega

theorem Blit.dstOff1_lt {nx ny : Nat} (hx : nx / 8 < b.dstPitch) (hy : ny < b.nh) : b.dstOff1 nx ny < b.fbLen :=
  Blit.fbByte_lt hx hy

theorem dstBit1_lt (nx : Nat) : dstBit1 nx < 8 := by
  unfold dstBit1
  omega

/-- The pixel of a copied source pixel is one of its row's. -/
theorem Blit.toNative_place (hd : b.depth = .one) {x y : Nat} (hx : x < b.copyW) (hy : y < b.copyH) :
    (b.toNative x y).1 / 8 < b.dstPitch ∧ (b.toNative x y).2 < b.nh := by
  obtain ⟨hnx, hny⟩ := Blit.toNative_lt (Nat.lt_min.mp hx).2 (Nat.lt_min.mp hy).2
  exact ⟨Blit.col1_lt_dstPitch hd hnx, hny⟩

/-! ## An image in the framebuffer -/

/-- No pixel of the copy region goes to bit `j` of framebuffer byte `o`. -/
def Blit.Uncovered1 (b : Blit) (o j : Nat) : Prop :=
  ∀ x y, x < b.copyW → y < b.copyH →
    ¬(b.dstOff1 (b.toNative x y).1 (b.toNative x y).2 = o ∧ dstBit1 (b.toNative x y).1 = j)

/-- The framebuffer shows the pixels of `src` through the transform (R80), and every other bit of it is `rest`'s. -/
structure Blit.Shows1 (b : Blit) (src rest : Nat → Nat → Bool) (m : Memory) : Prop where
  pixel : ∀ x y, x < b.copyW → y < b.copyH → b.nativePix1 m (b.toNative x y).1 (b.toNative x y).2 = src x y
  other : ∀ o j, o < b.fbLen → j < 8 → b.Uncovered1 o j → (m.readAt b.fb o).getLsbD j = rest o j

/-- Only the copied source pixels and the framebuffer's own bits matter. -/
theorem Blit.Shows1.congr {src src' rest rest' : Nat → Nat → Bool} (h : b.Shows1 src rest m)
    (hsrc : ∀ x y, x < b.sw → y < b.sh → src x y = src' x y)
    (hrest : ∀ o j, o < b.fbLen → rest o j = rest' o j) : b.Shows1 src' rest' m where
  pixel x y hx hy := (h.pixel x y hx hy).trans (hsrc x y (Nat.lt_min.mp hx).1 (Nat.lt_min.mp hy).1)
  other o j ho hj hun := (h.other o j ho hj hun).trans (hrest o j ho)

/-! ## The clear (R79) -/

/-- Memory after the clear: as it was where the source covers the display (R78). -/
def Blit.cleared (b : Blit) (m : Memory) : Memory := if b.covers then m else b.fill m

/-- A BLIT is the clear, then its path (R83). -/
theorem Depth.blitMemory_eq_cleared (n : Depth) (b : Blit) (m : Memory) :
    n.blitMemory b m = n.pathMemory b (b.cleared m) := rfl

theorem Blit.cleared_spec (hm : m.wf) (hlen : b.fbLen ≤ 2 ^ 32) :
    (b.cleared m).wf ∧ Memory.AgreeOn (fun a => ¬b.inFb a) m (b.cleared m) ∧
      ∀ o, o < b.fbLen → (b.cleared m).readAt b.fb o = if b.covers then m.readAt b.fb o else b.depth.white := by
  unfold Blit.cleared
  cases b.covers with
  | true => exact ⟨hm, fun _ _ _ => rfl, fun _ _ => rfl⟩
  | false =>
    obtain ⟨hwf, hframe, hfill⟩ := Blit.fill_spec hm hlen
    exact ⟨hwf, fun a ha hout => hframe a ha (Bool.not_eq_true _ ▸ hout), hfill⟩

/-! ## The converters (R94 to R97) -/

/-- The pixel loop shows the source and leaves every other bit. -/
theorem Blit.shows1_loop1 (hd : b.depth = .one) (hm : m.wf) (hlen : b.fbLen ≤ 2 ^ 32) (hapart : b.Apart) :
    b.Shows1 (b.srcPix1 m) (fun o j => (m.readAt b.fb o).getLsbD j) (b.loop1 m) := by
  obtain ⟨-, -, hpixel, hother⟩ := Blit.forPixels_spec oneBit hm hlen
    (off := fun x y => b.dstOff1 (b.toNative x y).1 (b.toNative x y).2) (slot := fun x y => dstBit1 (b.toNative x y).1)
    (src := fun m => b.srcPix1 m)
    (fun x y hx hy => by
      obtain ⟨hcol, hrow⟩ := Blit.toNative_place hd hx hy
      exact ⟨Blit.dstOff1_lt hcol hrow, dstBit1_lt _⟩)
    (fun x y x' y' hx hy hx' hy' hoff hbit => by
      obtain ⟨hnx, hny⟩ := Blit.bit1_inj (Blit.toNative_place hd hx hy).1 (Blit.toNative_place hd hx' hy').1 hoff hbit
      exact Blit.toNative_inj (Nat.lt_min.mp hx).2 (Nat.lt_min.mp hy).2 (Nat.lt_min.mp hx').2 (Nat.lt_min.mp hy').2
        (Prod.ext hnx hny))
    (fun m₁ hframe x y hx hy => Blit.srcPix1_of_agreeOn hd hapart
      (fun a ha hout => hframe a ha (Bool.not_eq_true _ ▸ hout)) (Nat.lt_min.mp hx).1 (Nat.lt_min.mp hy).1)
  exact ⟨hpixel, hother⟩

/-! ## The fast path (R93) -/

/-- The bulk copy makes the framebuffer the payload. -/
theorem Blit.readAt_bulkCopy (hd : b.depth = .one) (hf : b.isFullscreen = true) (hm : m.wf) (hlen : b.fbLen ≤ 2 ^ 32)
    (hapart : b.Apart) {o : Nat} (ho : o < b.fbLen) :
    (b.bulkCopy m).readAt b.fb o = m.readAt b.src (Config.hdrSize + o) := by
  obtain ⟨hbytes, himage, -, -⟩ := Blit.fullscreen_lens hd hf
  obtain ⟨-, -, hcopied⟩ := forRange_writeAt_spec hm (base := b.fb) (n := b.fbLen) hlen (off := fun i => i)
    (val := fun m i => m.readAt b.src (Config.hdrSize + i)) (fun _ hi => hi) (fun _ _ _ _ h => h)
    (fun i hi m₁ hframe => hframe _ (busAddr_lt _ _) fun j hj heq =>
      hapart.not_inFb (off := Config.hdrSize + i) (by omega) (heq ▸ inRange_busAddr (by omega)))
  rw [Blit.bulkCopy, hbytes]
  exact hcopied o ho

/-- A loop that rewrites byte `off i` of a buffer at iteration `i`, no byte twice, by a function of the byte itself:
what each byte becomes. -/
theorem readAt_forRange_update (hm : m.wf) {base : Word} {n len : Nat} (hlen : len ≤ 2 ^ 32) {off : Nat → Nat}
    (hoff : ∀ i, i < n → off i < len) (hinj : ∀ i j, i < n → j < n → off i = off j → i = j) (f : Byte → Byte) :
    let m' := forRange n (fun i m => m.writeAt base (off i) (f (m.readAt base (off i)))) m
    (∀ i, i < n → m'.readAt base (off i) = f (m.readAt base (off i))) ∧
      ∀ o, o < len → (∀ i, i < n → off i ≠ o) → m'.readAt base o = m.readAt base o := by
  have hbus : ∀ i, i < n → ∀ o, o < len → busAddr base (off i) = busAddr base o → off i = o := fun i hi o ho =>
    busAddr_inj (Nat.lt_of_lt_of_le (hoff i hi) hlen) (Nat.lt_of_lt_of_le ho hlen)
  obtain ⟨-, hframe, hdone⟩ := forRange_writeAt_spec hm (base := base) hlen
    (val := fun m i => f (m.readAt base (off i))) hoff hinj
    (fun i hi m₁ hm₁ => congrArg f (hm₁ _ (busAddr_lt _ _) fun j hj heq => by
      have := hinj j i (by omega) hi (hbus j (by omega) _ (hoff i hi) heq)
      omega))
  exact ⟨hdone, fun o ho hne => hframe _ (busAddr_lt _ _) fun j hj heq => hne j hj (hbus j hj o ho heq)⟩

/-- The mask of a row's last byte holds the places left of the native width (R89, R93). -/
theorem getLsbD_mask1Byte_last {nx w : Nat} (h : nx / 8 = w / 8) :
    (mask1Byte (w % 8)).getLsbD (dstBit1 nx) = decide (nx < w) := by
  rw [mask1Byte, getLsbD_highMask (by omega), ← Bool.decide_and, decide_eq_decide, dstBit1]
  omega

/-- The padding fix clears the places past the native width and leaves the pixels. -/
theorem Blit.nativePix1_fixPadding (hd : b.depth = .one) (hf : b.isFullscreen = true) (hm : m.wf)
    (hlen : b.fbLen ≤ 2 ^ 32) {nx ny : Nat} (hx : nx / 8 < b.dstPitch) (hy : ny < b.nh) :
    b.nativePix1 (b.fixPadding m) nx ny = (b.nativePix1 m nx ny && decide (nx < b.nw)) := by
  obtain ⟨-, -, hnw, hnh⟩ := Blit.fullscreen_lens hd hf
  have hpitch : b.dstPitch = ceilDiv b.lw 8 := by simp only [Blit.dstPitch, hd, hnw]
  unfold Blit.fixPadding
  split
  case isTrue h8 =>
    have hlt : nx < b.nw := by simp only [hpitch, ceilDiv] at hx; omega
    rw [decide_eq_true hlt, Bool.and_true]
  case isFalse h8 =>
    have hlast : b.dstPitch = b.lw / 8 + 1 := by simp only [hpitch, ceilDiv]; omega
    have hcol : ∀ y, y * b.dstPitch + b.dstPitch - 1 = y * b.dstPitch + b.lw / 8 := fun y => by omega
    obtain ⟨hmasked, hkept⟩ := readAt_forRange_update hm (base := b.fb) hlen
      (off := fun ny => ny * b.dstPitch + b.lw / 8) (fun i hi => Blit.fbByte_lt (by omega) (hnh ▸ hi))
      (fun i j _ _ h => (rowByte_inj (by omega) (by omega) h).1) (· &&& mask1Byte (b.lw % 8))
    simp only [hcol]
    by_cases hc : nx / 8 = b.lw / 8
    · rw [Blit.nativePix1, Blit.dstOff1, hc, hmasked ny (hnh ▸ hy), BitVec.getLsbD_and, getLsbD_mask1Byte_last hc, hnw,
        Blit.nativePix1, Blit.dstOff1, hc]
    · have hlt : nx < b.nw := by omega
      rw [decide_eq_true hlt, Bool.and_true, Blit.nativePix1, hkept _ (Blit.dstOff1_lt hx hy) fun i _ heq =>
        hc (rowByte_inj (by omega) hx heq).2.symm, Blit.nativePix1]

/-- The fast path shows the source, and clears every other bit, whatever it was (R93). -/
theorem Blit.shows1_fastPath (hd : b.depth = .one) (hf : b.isFullscreen = true) (hm : m.wf) (hlen : b.fbLen ≤ 2 ^ 32)
    (hapart : b.Apart) : b.Shows1 (b.srcPix1 m) (fun _ _ => false) (b.fastPath m) := by
  have hcopy := (Blit.keeps_bulkCopy hd hf).wf hm
  have hplace : ∀ {nx ny}, nx / 8 < b.dstPitch → ny < b.nh → b.nativePix1 (b.fastPath m) nx ny =
      ((m.readAt b.src (Config.hdrSize + b.dstOff1 nx ny)).getLsbD (dstBit1 nx) && decide (nx < b.nw)) :=
    fun hx hy => by
      rw [Blit.fastPath, Blit.nativePix1_fixPadding hd hf hcopy hlen hx hy, Blit.nativePix1,
        Blit.readAt_bulkCopy hd hf hm hlen hapart (Blit.dstOff1_lt hx hy)]
  simp only [Blit.isFullscreen, Bool.and_eq_true, decide_eq_true_eq] at hf
  obtain ⟨⟨hr, hsw⟩, hsh⟩ := hf
  have hT : ∀ x y, b.toNative x y = (x, y) := by simp [Blit.toNative, hr]
  have hnw : b.nw = b.lw := by simp [Blit.nw, hr]
  have hnh : b.nh = b.lh := by simp [Blit.nh, hr]
  have hpitch : b.dstPitch = b.src1Pitch := by simp [Blit.dstPitch, Blit.src1Pitch, hd, hnw, hsw]
  constructor
  case pixel =>
    intro x y hx hy
    obtain ⟨hcol, hrow⟩ := Blit.toNative_place hd hx hy
    have hlt : (b.toNative x y).1 < b.nw := (Blit.toNative_lt (Nat.lt_min.mp hx).2 (Nat.lt_min.mp hy).2).1
    rw [hplace hcol hrow, decide_eq_true hlt, Bool.and_true, hT, Blit.dstOff1, hpitch, ← Nat.add_assoc]
    rfl
  case other =>
    intro o j ho hj hun
    obtain ⟨nx, ny, hcol, hrow, rfl, rfl⟩ := Blit.exists_bit1 ho hj
    have hpad : ¬nx < b.nw := fun hlt => by
      refine hun nx ny (Nat.lt_min.mpr ⟨by omega, by omega⟩) (Nat.lt_min.mpr ⟨by omega, by omega⟩) ?_
      rw [hT]
      exact ⟨rfl, rfl⟩
    exact (hplace hcol hrow).trans (by rw [decide_eq_false hpad, Bool.and_false])

/-! ## The whole command -/

/-- After a BLIT1 the framebuffer shows the source; every other bit is 0 if the clear or the fast path ran, else as it
was. -/
theorem Depth.shows1_blitMemory (hd : b.depth = .one) (hm : m.wf) (hlen : b.fbLen ≤ 2 ^ 32) (hapart : b.Apart) :
    b.Shows1 (b.srcPix1 m)
      (fun o j => if b.isFullscreen = true ∨ b.covers = false then false else (m.readAt b.fb o).getLsbD j)
      (Depth.one.blitMemory b m) := by
  obtain ⟨hwf, hframe, hfb⟩ := Blit.cleared_spec hm hlen
  have hsrc : ∀ x y, x < b.sw → y < b.sh → b.srcPix1 (b.cleared m) x y = b.srcPix1 m x y :=
    fun _ _ => Blit.srcPix1_of_agreeOn hd hapart hframe
  rw [Depth.blitMemory_eq_cleared, Depth.pathMemory_one]
  by_cases hf : b.isFullscreen = true
  · rw [if_pos hf]
    exact (Blit.shows1_fastPath hd hf hwf hlen hapart).congr hsrc fun _ _ _ => (if_pos (.inl hf)).symm
  · rw [if_neg hf]
    refine (Blit.shows1_loop1 hd hwf hlen hapart).congr hsrc fun o j ho => ?_
    rw [hfb o ho]
    cases b.covers <;> simp [hf, hd, Depth.white]

end

/-- Source pixel `(x, y)` in the claims' words (R40). -/
theorem State.blit_srcPix1 (s : State) (n : Depth) (x y : Nat) : (s.blit n).srcPix1 s.mem x y = s.sourceBit x y := by
  rw [Blit.srcPix1, Blit.src1Pitch, State.blit_sw]
  rfl

theorem Blit.covers_eq_false_iff {b : Blit} : b.covers = false ↔ b.sw < b.lw ∨ b.sh < b.lh := by
  simp only [Blit.covers, Bool.and_eq_false_iff, decide_eq_false_iff_not, Nat.not_le]

/-- Settles O36: BLIT1's memory shows the source, with the fast path's and the clear's conditions written out. -/
theorem blit1WritesItsPixels : Obligations.Blit1WritesItsPixels := by
  unfold Obligations.Blit1WritesItsPixels
  intro s fast hm hready b fullscreen
  have hfast : b.isFullscreen = true ↔ fullscreen := by
    simp only [show b.isFullscreen = _ from s.takesFastPath_one, Bool.and_eq_true, decide_eq_true_eq, and_assoc]
    rfl
  have hshows : b.Shows1 (b.srcPix1 s.mem)
      (fun o j => if b.isFullscreen = true ∨ b.covers = false then false else (s.mem.readAt b.fb o).getLsbD j)
      (s.blitMemory .one) := s.blitMemory_eq .one ▸
    Depth.shows1_blitMemory rfl hm (Nat.le_of_lt (s.blit_fbLen_lt .one)) hready.apart
  refine ⟨_, exec_blit_of_ready hready fast, fun hfull => ?_, fun x y hx hy => ?_, fun o j ho hj hun => ?_⟩
  · exact Bool.or_eq_true_iff.mpr (.inr (hfast.mpr hfull))
  · exact (hshows.pixel x y hx hy).trans (s.blit_srcPix1 .one x y)
  · simpa only [State.afterBlit, hfast, Blit.covers_eq_false_iff] using hshows.other o j ho hj hun

end Sys2Proof.Machine
end

section
/-! The framebuffer after BLIT2, field by field (R99 to R104): the pixels the converters' loop writes, and white in every
other field. -/

namespace Sys2Proof.Machine

/-! ## Source values (R41, R104) -/

section
variable {b : Blit} {m m' : Memory}

/-- The byte of pixel `(x, y)` in either plane lies in the payload. -/
theorem Blit.planeByte_lt (hd : b.depth = .two) {plane x y : Nat} (hp : plane ≤ b.planeSize) (hx : x < b.sw)
    (hy : y < b.sh) : Config.hdrSize + plane + x * b.planePitch + y / 8 < b.imageLen := by
  have hbyte : x * b.planePitch + y / 8 < b.planeSize := rowByte_lt hx (div_lt_ceilDiv hy)
  have hsize : b.imageLen = Config.hdrSize + 2 * b.planeSize := by
    simp only [Blit.imageLen, hd, Depth.expSize, Blit.planeSize, Blit.planePitch, Nat.mul_assoc]
  omega

/-- The image's bytes decide the native values of the source pixels. -/
theorem Blit.nativeOfSrc2_congr (hd : b.depth = .two)
    (h : ∀ off, off < b.imageLen → m'.readAt b.src off = m.readAt b.src off) {x y : Nat} (hx : x < b.sw)
    (hy : y < b.sh) : b.nativeOfSrc2 m' x y = b.nativeOfSrc2 m x y := by
  have hplane : ∀ plane, plane ≤ b.planeSize → b.planeBit m' plane x y = b.planeBit m plane x y := fun plane hp => by
    rw [Blit.planeBit, h _ (Blit.planeByte_lt hd hp hx hy), Blit.planeBit]
  rw [Blit.nativeOfSrc2, Blit.srcVal2, hplane 0 (Nat.zero_le _), hplane _ (Nat.le_refl _), Blit.nativeOfSrc2,
    Blit.srcVal2]

/-- What changes the framebuffer alone leaves the source values. -/
theorem Blit.nativeOfSrc2_of_agreeOn (hd : b.depth = .two) (h : b.Apart)
    (hm : Memory.AgreeOn (fun a => ¬b.inFb a) m m') {x y : Nat} (hx : x < b.sw) (hy : y < b.sh) :
    b.nativeOfSrc2 m' x y = b.nativeOfSrc2 m x y :=
  Blit.nativeOfSrc2_congr hd (fun _ hoff => hm.readAt (h.not_inFb hoff)) hx hy

/-- The native value in the claims' words. -/
theorem State.toNat_nativeOfSrc2 (s : State) (n : Depth) (x y : Nat) :
    ((s.blit n).nativeOfSrc2 s.mem x y).toNat = 3 - s.sourceValue x y := by
  rw [Blit.nativeOfSrc2, toNat_nativeValue, Blit.srcVal2, toNat_planeValue, Blit.planeBit, Blit.planeBit,
    Blit.planeSize, Blit.planePitch, State.blit_sw, State.blit_sh]
  rfl

/-! ## Native pixels and the framebuffer's fields (R39, R41) -/

/-- Two places of a framebuffer row that are one field are one place. -/
theorem Blit.field2_inj {nx ny nx' ny' : Nat} (hx : nx / 4 < b.dstPitch) (hx' : nx' / 4 < b.dstPitch)
    (hoff : b.dstOff2 nx ny = b.dstOff2 nx' ny') (hslot : dstSlot2 nx = dstSlot2 nx') : nx = nx' ∧ ny = ny' := by
  obtain ⟨hny, hcol⟩ := rowByte_inj hx hx' hoff
  simp only [dstSlot2] at hslot
  exact ⟨by omega, hny⟩

/-- Every field of the framebuffer is a native pixel: a 2bpp row has no padding. -/
theorem Blit.exists_field2 (hd : b.depth = .two) {o k : Nat} (ho : o < b.fbLen) (hk : k < 4) :
    ∃ nx ny, nx < b.nw ∧ ny < b.nh ∧ b.dstOff2 nx ny = o ∧ dstSlot2 nx = k := by
  have hpos : 0 < b.dstPitch := Nat.pos_of_ne_zero fun h0 => by simp [Blit.fbLen, h0] at ho
  have hcol : o % b.dstPitch < b.nw / 4 := by
    have hpitch : b.dstPitch = b.nw / 4 := by simp only [Blit.dstPitch, hd]
    exact hpitch ▸ Nat.mod_lt o hpos
  refine ⟨4 * (o % b.dstPitch) + k, o / b.dstPitch, by omega, Nat.div_lt_of_lt_mul ho, ?_, ?_⟩
  · have hbyte : (4 * (o % b.dstPitch) + k) / 4 = o % b.dstPitch := by omega
    rw [Blit.dstOff2, hbyte, Nat.mul_comm]
    exact Nat.div_add_mod o b.dstPitch
  · simp only [dstSlot2]
    omega

/-- The pixel of a copied source pixel is one of its row's. -/
theorem Blit.toNative_place2 (hd : b.depth = .two) (h4 : b.nw % 4 = 0) {x y : Nat} (hx : x < b.copyW)
    (hy : y < b.copyH) : (b.toNative x y).1 / 4 < b.dstPitch ∧ (b.toNative x y).2 < b.nh := by
  obtain ⟨hnx, hny⟩ := Blit.toNative_lt (Nat.lt_min.mp hx).2 (Nat.lt_min.mp hy).2
  exact ⟨Blit.col2_lt_dstPitch hd h4 hnx, hny⟩

/-- No pixel of the copy region goes to field `k` of framebuffer byte `o`. -/
def Blit.Uncovered2 (b : Blit) (o k : Nat) : Prop :=
  ∀ x y, x < b.copyW → y < b.copyH →
    ¬(b.dstOff2 (b.toNative x y).1 (b.toNative x y).2 = o ∧ dstSlot2 (b.toNative x y).1 = k)

/-- A source that covers the display (R78) leaves no field out. -/
theorem Blit.not_uncovered2_of_covers (hd : b.depth = .two) (hc : b.covers = true) {o k : Nat} (ho : o < b.fbLen)
    (hk : k < 4) : ¬b.Uncovered2 o k := fun hun => by
  obtain ⟨nx, ny, hnx, hny, hoff, hslot⟩ := Blit.exists_field2 hd ho hk
  obtain ⟨x, y, hx, hy, hT⟩ := Blit.exists_toNative_eq hnx hny
  simp only [Blit.covers, Bool.and_eq_true, decide_eq_true_eq] at hc
  obtain ⟨hw, hh⟩ := hc
  refine hun x y (Nat.lt_min.mpr ⟨by omega, hx⟩) (Nat.lt_min.mpr ⟨by omega, hy⟩) ?_
  rw [hT]
  exact ⟨hoff, hslot⟩

/-! ## An image on white in the framebuffer -/

/-- The framebuffer shows the values of `src` through the transform (R80), and every other field of it is white. -/
structure Blit.Shows2 (b : Blit) (src : Nat → Nat → BitVec 2) (m : Memory) : Prop where
  pixel : ∀ x y, x < b.copyW → y < b.copyH → b.nativePix2 m (b.toNative x y).1 (b.toNative x y).2 = src x y
  other : ∀ o k, o < b.fbLen → k < 4 → b.Uncovered2 o k → field2Of (m.readAt b.fb o) k = 3#2

/-- Only the source pixels' values matter. -/
theorem Blit.Shows2.congr {src src' : Nat → Nat → BitVec 2} (h : b.Shows2 src m)
    (hsrc : ∀ x y, x < b.sw → y < b.sh → src x y = src' x y) : b.Shows2 src' m where
  pixel x y hx hy := (h.pixel x y hx hy).trans (hsrc x y (Nat.lt_min.mp hx).1 (Nat.lt_min.mp hy).1)
  other := h.other

/-- The image decides every byte of a framebuffer that shows it, for each field is a pixel or white. -/
theorem Blit.Shows2.readAt_eq {src : Nat → Nat → BitVec 2} (h : b.Shows2 src m) (h' : b.Shows2 src m') {o : Nat}
    (ho : o < b.fbLen) : m'.readAt b.fb o = m.readAt b.fb o := by
  refine eq_of_field2Of_eq fun k hk => ?_
  by_cases hun : b.Uncovered2 o k
  · rw [h.other o k ho hk hun, h'.other o k ho hk hun]
  · simp only [Blit.Uncovered2, not_forall, not_not] at hun
    obtain ⟨x, y, hx, hy, rfl, rfl⟩ := hun
    exact (h'.pixel x y hx hy).trans (h.pixel x y hx hy).symm

/-! ## The clear and the converters' loop (R79, R100 to R103) -/

theorem field2Of_white {k : Nat} (hk : k < 4) : field2Of Depth.two.white k = 3#2 := by
  interval_cases k <;> rfl

/-- After the clear, what the loop will not write is white: all of it, or nothing where there was no clear. -/
theorem Blit.white_of_uncovered2 (hd : b.depth = .two) (hm : m.wf) (hlen : b.fbLen ≤ 2 ^ 32) {o k : Nat}
    (ho : o < b.fbLen) (hk : k < 4) (hun : b.Uncovered2 o k) : field2Of ((b.cleared m).readAt b.fb o) k = 3#2 := by
  obtain ⟨-, -, hfb⟩ := Blit.cleared_spec hm hlen
  have hc : ¬b.covers = true := fun hc => Blit.not_uncovered2_of_covers hd hc ho hk hun
  rw [hfb o ho, if_neg hc, hd, field2Of_white hk]

/-- The pixel loop shows the source where every field it leaves is white already. -/
theorem Blit.shows2_loop2 (hd : b.depth = .two) (h4 : b.nw % 4 = 0) (hm : m.wf) (hlen : b.fbLen ≤ 2 ^ 32)
    (hapart : b.Apart)
    (hwhite : ∀ o k, o < b.fbLen → k < 4 → b.Uncovered2 o k → field2Of (m.readAt b.fb o) k = 3#2) :
    b.Shows2 (b.nativeOfSrc2 m) (b.loop2 m) := by
  have hplace := fun x y => Blit.toNative_place2 (x := x) (y := y) hd h4
  obtain ⟨-, -, hpixel, hother⟩ := Blit.forPixels_spec twoBit hm hlen
    (off := fun x y => b.dstOff2 (b.toNative x y).1 (b.toNative x y).2) (slot := fun x y => dstSlot2 (b.toNative x y).1)
    (src := fun m => b.nativeOfSrc2 m)
    (fun x y hx hy => ⟨Blit.fbByte_lt (hplace x y hx hy).1 (hplace x y hx hy).2, Nat.mod_lt _ (by decide)⟩)
    (fun x y x' y' hx hy hx' hy' hoff hslot => by
      obtain ⟨hnx, hny⟩ := Blit.field2_inj (hplace x y hx hy).1 (hplace x' y' hx' hy').1 hoff hslot
      exact Blit.toNative_inj (Nat.lt_min.mp hx).2 (Nat.lt_min.mp hy).2 (Nat.lt_min.mp hx').2 (Nat.lt_min.mp hy').2
        (Prod.ext hnx hny))
    (fun m₁ hframe x y hx hy => Blit.nativeOfSrc2_of_agreeOn hd hapart
      (fun a ha hout => hframe a ha (Bool.not_eq_true _ ▸ hout)) (Nat.lt_min.mp hx).1 (Nat.lt_min.mp hy).1)
  exact ⟨hpixel, fun o k ho hk hun => (hother o k ho hk hun).trans (hwhite o k ho hk hun)⟩

/-! ## The whole command -/

/-- After a BLIT2 the framebuffer shows the source on white, whatever it held before. -/
theorem Depth.shows2_blitMemory (hd : b.depth = .two) (h4 : b.nw % 4 = 0) (hm : m.wf) (hlen : b.fbLen ≤ 2 ^ 32)
    (hapart : b.Apart) : b.Shows2 (b.nativeOfSrc2 m) (Depth.two.blitMemory b m) := by
  obtain ⟨hwf, hframe, -⟩ := Blit.cleared_spec hm hlen
  rw [Depth.blitMemory_eq_cleared, Depth.pathMemory_two h4]
  exact (Blit.shows2_loop2 hd h4 hwf hlen hapart fun _ _ => Blit.white_of_uncovered2 hd hm hlen).congr
    fun _ _ => Blit.nativeOfSrc2_of_agreeOn hd hapart hframe

end

theorem State.shows2_blitMemory {s : State} (hm : s.mem.wf) (h : s.blitReady .two) :
    (s.blit .two).Shows2 ((s.blit .two).nativeOfSrc2 s.mem) (s.blitMemory .two) := by
  obtain ⟨-, -, h4⟩ := State.geometry_of_firstError h.1
  rw [State.blitMemory_eq]
  exact Depth.shows2_blitMemory rfl (h4 rfl) hm (Nat.le_of_lt (s.blit_fbLen_lt .two)) h.apart

/-- Settles O37: BLIT2's memory shows the source on white, and a LUT entry's fields are native values. -/
theorem blit2WritesItsPixels : Obligations.Blit2WritesItsPixels := by
  unfold Obligations.Blit2WritesItsPixels
  refine ⟨?_, fun i k hk => field2Of_lut i hk⟩
  intro s fast hm hready b
  have hshows : b.Shows2 (b.nativeOfSrc2 s.mem) (s.blitMemory .two) := State.shows2_blitMemory hm hready
  refine ⟨_, exec_blit_of_ready hready fast, fun x y hx hy => ?_, hshows.other⟩
  exact (congrArg BitVec.toNat (hshows.pixel x y hx hy)).trans (s.toNat_nativeOfSrc2 .two x y)

/-- Settles O41: both framebuffers show the one image on white, and it decides every byte of them. -/
theorem blit2HidesTheOldFramebuffer : Obligations.Blit2HidesTheOldFramebuffer := by
  unfold Obligations.Blit2HidesTheOldFramebuffer
  intro s m fast hm hm' hready himage
  have hheader : Memory.AgreeOn s.inHeader s.mem m := fun a ha hin =>
    himage a ha (inRange_mono (Nat.le_add_right 22 _) hin)
  have hready' : State.blitReady { s with mem := m } .two := State.blitReady_congr hready hheader
  have hshows := State.shows2_blitMemory hm hready
  have hshows' := State.shows2_blitMemory (s := { s with mem := m }) hm' hready'
  rw [State.blit_congr hheader] at hshows'
  have hsame := hshows'.congr fun _ _ => Blit.nativeOfSrc2_congr rfl fun _ hoff =>
    Memory.AgreeOn.readAt himage (inRange_busAddr hoff)
  refine ⟨_, _, exec_blit_of_ready hready fast, exec_blit_of_ready hready' fast, fun a ha hin => ?_⟩
  obtain ⟨o, ho, rfl⟩ := (inRange_iff ha).mp hin
  exact hshows.readAt_eq hsame ho

end Sys2Proof.Machine
end

section
/-! The exceptions family (60_exceptions.md): the result codes (R105), what an error writes (R106), the update request
(R112), and hosts that interleave (R117). -/

namespace Sys2Proof.Machine

/-! ## Errors (R105, R106) -/

/-- Settles O27: of all that an engine step can do, only raising an error ends with ERR not 0. -/
theorem errorsWriteOnlyStatus : Obligations.ErrorsWriteOnlyStatus := by
  unfold Obligations.ErrorsWriteOnlyStatus
  intro s t hok h herr
  rcases State.engineStep_cases h with ⟨e, -, rfl⟩ | ⟨i, o, -, -, rfl⟩ | ⟨o, o', -, rfl⟩ | ⟨n, fast, -, -, rfl⟩
  · rfl
  · exact absurd hok herr
  · exact absurd hok herr
  · exact absurd rfl herr

theorem ErrorCode.toNat_code_le (e : ErrorCode) : e.code.toNat ≤ 9 := by
  cases e <;> decide

/-- Settles O10: STATUS bits 11:8 are the number of a code, and no code has a number above 9. -/
theorem errorCodesHaveTheirNumbers : Obligations.ErrorCodesHaveTheirNumbers := by
  unfold Obligations.ErrorCodesHaveTheirNumbers
  refine ⟨rfl, fun s => ?_⟩
  rw [State.statusWord_err]
  exact s.status.err.toNat_code_le

/-! ## The update request (R112) -/

theorem Depth.instr_ne_primitive {i : Instr} (hi : i ∈ [Instr.xpose8, .rev8, .mask1, .mask2, .lut2]) (n : Depth)
    (fast : Bool) : n.instr fast ≠ i := by
  rintro rfl
  cases n <;> simp [Depth.instr] at hi

theorem not_decode_blit_of_primitive {w : Word} {i : Instr} (hd : decode w = .ok i)
    (hi : i ∈ [Instr.xpose8, .rev8, .mask1, .mask2, .lut2]) : ¬∃ n fast, decode w = .ok (Depth.instr n fast) := by
  rintro ⟨n, fast, hblit⟩
  exact n.instr_ne_primitive hi fast (Except.ok.inj (hblit.symm.trans hd))

/-- An engine step is a BLIT's success, with its one request and the mirror of it in STATUS, or no BLIT's success, and
then neither the requests nor their mirror change. -/
theorem State.engineStep_request {s t : State} (h : s.engineStep = .next t) :
    (∃ n fast, decode s.cmd = .ok (Depth.instr n fast) ∧ t.status.err = .ok ∧ t.status.upd = true ∧
        t.status.updFast = fast ∧ t.updates = s.updates ++ [kindOf fast]) ∨
      (¬(t.status.err = .ok ∧ ∃ n fast, decode s.cmd = .ok (Depth.instr n fast)) ∧
        t.updates = s.updates ∧ t.status.upd = s.status.upd ∧ t.status.updFast = s.status.updFast) := by
  rcases State.engineStep_cases h with ⟨e, he, rfl⟩ | ⟨i, o, hi, hd, rfl⟩ | ⟨o, o', hd, rfl⟩ | ⟨n, fast, hd, -, rfl⟩
  · exact .inr ⟨fun hsuccess => he hsuccess.1, rfl, rfl, rfl⟩
  · exact .inr ⟨fun hsuccess => not_decode_blit_of_primitive hd (List.mem_cons_of_mem _ hi) hsuccess.2, rfl, rfl, rfl⟩
  · exact .inr ⟨fun hsuccess => not_decode_blit_of_primitive hd List.mem_cons_self hsuccess.2, rfl, rfl, rfl⟩
  · exact .inl ⟨n, fast, hd, rfl, rfl, rfl, rfl⟩

@[simp] theorem State.writeOffset_updates (s : State) (off : Nat) (w : Word) :
    (s.writeOffset off w).updates = s.updates := by
  rcases s.writeOffset_cases off w with ⟨-, h⟩ | ⟨-, ⟨r, -, h⟩ | ⟨-, h⟩⟩ <;> simp [h]

/-- No event pulses UPDATE_REQ, the reset input included (R119). -/
theorem State.handle_keeps_updates {s t : State} {e : Event} (h : State.handle s e = .next t) :
    t.updates = s.updates := by
  rcases State.handle_cases h with ⟨host, addr, off, es, rfl⟩ | ⟨host, addr, w, off, -, -, rfl⟩ | ⟨addr, v, rfl⟩ |
    ⟨addr, b, -, rfl⟩ | ⟨-, rfl | ⟨n, -, rfl⟩⟩
  · rfl
  · exact s.writeOffset_updates off w
  · rfl
  · rfl
  · rfl
  · rfl

/-- Settles O43: the host adds no request, and the engine adds one exactly in a BLIT's success. -/
theorem oneRequestPerSuccessfulBlit : Obligations.OneRequestPerSuccessfulBlit := by
  unfold Obligations.OneRequestPerSuccessfulBlit
  refine ⟨fun s t h hne => ?_, fun s t hrun h => ?_⟩
  · rcases step_engine_or_event h with ⟨-, hm, hengine⟩ | ⟨-, rfl | ⟨e, rest, -, hhandle⟩⟩
    · rcases State.engineStep_request hengine with ⟨n, fast, hd, herr, hupd, hfast, hreq⟩ | ⟨-, hsame, -, -⟩
      · exact ⟨n, fast, hm, s.popTurn_cmd ▸ hd, herr, hupd, hfast, s.popTurn_updates ▸ hreq⟩
      · exact absurd (hsame.trans s.popTurn_updates) hne
    · exact absurd s.popTurn_updates hne
    · exact absurd ((State.handle_keeps_updates hhandle).trans s.popTurn_updates) hne
  · obtain ⟨-, -, hupd0, hfast0, -⟩ := hrun
    rcases State.engineStep_request h with ⟨n, fast, hd, herr, hupd, -, hreq⟩ | ⟨hnot, hsame, hupd, hfast⟩
    · exact ⟨by simp [hupd, hreq], iff_of_true hupd ⟨herr, n, fast, hd⟩, fun hclear => by simp [hupd] at hclear⟩
    · have hclear : t.status.upd ≠ true := by simp [hupd, hupd0]
      exact ⟨iff_of_false (not_not.mpr hsame) hclear, iff_of_false hclear hnot, fun _ => hfast.trans hfast0⟩

/-! ## Hosts that interleave (R117) -/

theorem State.portConflict_of_other_owner {s : State} {host : Nat} {r : Reg} {o : PortOwner}
    (hr : r.isParameter = true) (ho : s.portOwner = some o) (hne : o.host ≠ host) :
    s.portConflict host r.offset = true :=
  eq_true_of_ne_false fun hfree =>
    hne (State.portConflict_eq_false_iff.mp hfree o r ho (Reg.ofOffset_offset r) hr)

theorem State.regWrite_of_portConflict {s : State} {host off : Nat} {addr : Word} {bits : Nat}
    (ho : s.windowOffset addr bits = some off) (hc : s.portConflict host off = true) (w : Word) :
    s.regWrite host addr bits w = .refused .hostsInterleave := by
  simp [State.regWrite, ho, hc]

theorem Reg.isResult_iff {r : Reg} : r.isResult = true ↔ r ∈ [Reg.status, .out0, .out1] := by
  cases r <;> decide

/-- The owner's read of a result, once its command is over, gives the port up. -/
theorem State.ownerAfterRead_result {s : State} {host : Nat} {r : Reg} (hidle : s.fsm = .idle)
    (hr : r.isResult = true) (ho : s.portOwner = some { host := host, started := true }) :
    s.ownerAfterRead host r.offset = none := by
  simp [State.ownerAfterRead, hidle, hr, ho]

/-- Settles O18: the write breaks the other host's ownership, and the read is a served read of a result. -/
theorem hostsMayNotInterleave : Obligations.HostsMayNotInterleave := by
  unfold Obligations.HostsMayNotInterleave
  intro s host addr w r o hoff
  refine ⟨fun hr ho hne => ?_, fun hr hidle ho => ?_⟩
  · exact State.regWrite_of_portConflict hoff (State.portConflict_of_other_owner hr ho hne) w
  · exact ⟨s.portRead host addr r.offset, State.regRead_of_windowOffset hoff host,
      State.ownerAfterRead_result hidle (Reg.isResult_iff.mpr hr) ho⟩

end Sys2Proof.Machine
end

section
/-! The reset and hazards family (70_reset_and_hazards.md): the bound on the host's turns (R125), the reset input
(R119, R120), and what holds while a command is BUSY (R122). -/

namespace Sys2Proof.Machine

/-! ## Turns (R125) -/

@[simp] theorem State.writeOffset_turns (s : State) (off : Nat) (w : Word) :
    (s.writeOffset off w).turns = s.turns := by
  rcases s.writeOffset_cases off w with ⟨-, h⟩ | ⟨-, ⟨r, -, h⟩ | ⟨-, h⟩⟩ <;> simp [h]

/-- No event changes whose turn it is. -/
theorem State.handle_keeps_turns {s t : State} {e : Event} (h : State.handle s e = .next t) : t.turns = s.turns := by
  rcases State.handle_cases h with ⟨host, addr, off, es, rfl⟩ | ⟨host, addr, w, off, -, -, rfl⟩ | ⟨addr, v, rfl⟩ |
    ⟨addr, b, -, rfl⟩ | ⟨-, rfl | ⟨n, -, rfl⟩⟩
  · rfl
  · exact s.writeOffset_turns off w
  · rfl
  · rfl
  · rfl
  · rfl

/-- A step that the host takes while a command is BUSY uses up one turn and serves the oldest event, if one waits. -/
theorem step_host_of_busy {s t : State} (h : step s = .next t) (hbusy : s.fsm = .busy) (hm : s.mover = .host) :
    t = { s with turns := s.turns.tail } ∨ ∃ e rest, s.events = e :: rest ∧
      State.handle { s with turns := s.turns.tail, events := rest } e = .next t := by
  rcases step_engine_or_event h with ⟨-, hengine, -⟩ | ⟨-, hhost⟩
  · exact absurd (hm.symm.trans hengine) (by decide)
  · rwa [State.popTurn_of_busy hbusy] at hhost

theorem step_host_turns {s t : State} (h : step s = .next t) (hbusy : s.fsm = .busy) (hm : s.mover = .host) :
    t.turns = s.turns.tail := by
  rcases step_host_of_busy h hbusy hm with rfl | ⟨e, rest, -, hhandle⟩
  · rfl
  · exact State.handle_keeps_turns hhandle

/-- The host moves while a command is BUSY only where a turn of its own is left. -/
theorem State.turns_pos_of_host {s : State} (hbusy : s.fsm = .busy) (hm : s.mover = .host) : 0 < s.turns.length := by
  rw [State.mover_of_busy hbusy] at hm
  cases hturns : s.turns with
  | nil => rw [hturns] at hm; cases hm
  | cons a ts => exact Nat.succ_pos _

theorem run_succ_of_next {s t : State} (h : step s = .next t) (k : Nat) :
    Host.Core.run core (k + 1) s = Host.Core.run core k t := by
  simp only [Host.Core.run, core, h]

/-- A run of one step is a step. -/
theorem step_of_run_one {s t : State} (h : Host.Core.run core 1 s = .next t) : step s = .next t := by
  cases hstep : step s with
  | next u => exact (run_succ_of_next hstep 0).symm.trans h
  | fault f => simp [Host.Core.run, core, hstep] at h
  | refused r => simp [Host.Core.run, core, hstep] at h

/-- Settles O7, by induction on the number of steps: each uses up one of the host's turns. -/
theorem hostHoldsTheEngineOffBoundedly : Obligations.HostHoldsTheEngineOffBoundedly := by
  unfold Obligations.HostHoldsTheEngineOffBoundedly
  intro s n
  induction n generalizing s with
  | zero =>
    intro h
    obtain ⟨u, hrun, hbusy, hm⟩ := h 0 (Nat.le_refl 0)
    cases hrun
    exact State.turns_pos_of_host hbusy hm
  | succ n ih =>
    intro h
    obtain ⟨u, hrun, hbusy, hm⟩ := h 0 (Nat.zero_le _)
    cases hrun
    obtain ⟨t, hone, -, -⟩ := h 1 (Nat.succ_le_succ (Nat.zero_le n))
    have hstep := step_of_run_one hone
    have hrest : n < t.turns.length := ih t fun k hk => by
      rw [← run_succ_of_next hstep k]
      exact h (k + 1) (Nat.succ_le_succ hk)
    rw [step_host_turns hstep hbusy hm, List.length_tail] at hrest
    omega

/-! ## The reset input (R119, R120) -/

theorem State.getReg_resetRegisters (s : State) (r : Reg) : s.resetRegisters.getReg r = 0 := by
  obtain ⟨hzero, -, -⟩ := resetStateIsZero
  rw [← hzero r]
  cases r with
  | status => exact State.statusWord_congr rfl rfl
  | _ => rfl

/-- Settles O46: a served reset clears the registers, whether or not it has freed a framebuffer first. -/
theorem resetInputClearsEveryRegister : Obligations.ResetInputClearsEveryRegister := by
  unfold Obligations.ResetInputClearsEveryRegister
  intro s t h
  rcases State.resetInput_next h with rfl | ⟨n, hn, rfl⟩
  · exact ⟨s.getReg_resetRegisters, rfl, rfl, rfl, fun _ => rfl⟩
  · exact ⟨State.getReg_resetRegisters _, rfl, rfl, rfl, fun hnone => by rw [hnone] at hn; cases hn⟩

theorem State.resetInput_of_no_blit {s : State} (h : s.runningBlit = none) : s.resetInput = .next s.resetRegisters := by
  simp only [State.resetInput, h]

theorem State.resetInput_of_reject {s : State} {n : Depth} {e : ErrorCode} (h : s.runningBlit = some n)
    (hadm : s.admission n = .reject e) : s.resetInput = .next s.resetRegisters := by
  simp only [State.resetInput, h, hadm]

theorem State.resetInput_of_run {s : State} {n : Depth} {b : Blit} (h : s.runningBlit = some n)
    (hadm : s.admission n = .run b) : s.resetInput = .next (s.scramble b).resetRegisters := by
  simp only [State.resetInput, h, hadm]

/-- An abandoned BLIT leaves one free value in each byte of its framebuffer (R120). -/
theorem State.readAt_scramble {s : State} (hm : s.mem.wf) {b : Blit} (hlen : b.fbLen ≤ 2 ^ 32) {i : Nat}
    (hi : i < b.fbLen) : (s.scramble b).mem.readAt b.fb i = Config.freeByte (s.draws + i) := by
  obtain ⟨-, -, hin⟩ := forRange_writeAt_spec hm (base := b.fb) hlen (off := fun i => i)
    (val := fun _ i => Config.freeByte (s.draws + i)) (fun _ hj => hj) (fun _ _ _ _ h => h) (fun _ _ _ _ => rfl)
  exact hin i hi

/-- Settles O47: what becomes of the running command decides which of the three resets it is. -/
theorem resetAbandonsTheCommand : Obligations.ResetAbandonsTheCommand := by
  unfold Obligations.ResetAbandonsTheCommand
  intro s n fast hm
  refine ⟨fun hnone => ⟨_, State.resetInput_of_no_blit hnone, rfl⟩, fun hbusy hd => ?_⟩
  have hrunning := State.runningBlit_of hbusy hd
  refine ⟨fun hready => ?_, fun e hplain he => ?_⟩
  · exact ⟨_, State.resetInput_of_run hrunning hready.admission,
      fun i hi => State.readAt_scramble hm (Nat.le_of_lt (s.blit_fbLen_lt n)) hi, rfl,
      State.scramble_frame hm (s.blit n)⟩
  · have hvalid : s.validate n = some e := (s.validate_eq_firstError n).trans he
    have hreject := State.admission_reject.mpr ⟨State.headerStop_eq_none hplain, hvalid⟩
    exact ⟨_, State.resetInput_of_reject hrunning hreject, rfl⟩

/-! ## While a command is BUSY (R122) -/

/-- All that an event but the reset input can do while a command is BUSY: a read is recorded, a register write sets OVR
(R27), another agent writes a byte (R51). -/
theorem State.handle_of_busy {s t : State} {e : Event} (h : State.handle s e = .next t) (hbusy : s.fsm = .busy)
    (hne : e ≠ .reset) :
    (∃ es rs, t = { s with events := es, reads := rs }) ∨ t = { s with status := s.status.overrun } ∨
      ∃ m, t = { s with mem := m } := by
  rcases State.handle_cases h with ⟨host, addr, off, es, rfl⟩ | ⟨host, addr, w, off, -, -, rfl⟩ | ⟨addr, v, rfl⟩ |
    ⟨addr, b, -, rfl⟩ | ⟨he, -⟩
  · rw [State.portRead, State.ownerAfterRead_of_busy hbusy]
    exact .inl ⟨es, _, rfl⟩
  · rw [State.portWrite, State.writeOffset_of_busy hbusy, State.ownerAfterWrite_of_busy hbusy]
    exact .inr (.inl rfl)
  · exact .inl ⟨s.events, _, rfl⟩
  · exact .inr (.inr ⟨_, rfl⟩)
  · exact absurd he hne

/-- A byte that another agent writes is in no buffer of a running BLIT (R51). -/
theorem State.not_inUse_of_memWrite {s t : State} {addr : Word} {v : Byte} (h : s.memWrite addr v = .next t) :
    ¬(s.imageInUse addr.toNat = true ∨ s.framebufferInUse addr.toNat = true) := by
  intro huse
  unfold State.memWrite at h
  split at h
  · cases h
  · rw [if_pos (by simpa using huse)] at h
    cases h

/-- No event but the reset input changes a byte of a running BLIT's buffers (R51). -/
theorem State.handle_keeps_buffers {s t : State} {e : Event} {n : Depth} {a : Nat} (h : State.handle s e = .next t)
    (hne : e ≠ .reset) (hrunning : s.runningBlit = some n) (hm : s.mem.wf) (ha : a < 2 ^ 32)
    (hin : s.inDeclaredFramebuffer n a ∨ s.inDeclaredImage a) : t.mem.read a = s.mem.read a := by
  by_contra hchange
  rcases State.handle_changes_memory hm h ha hchange with ⟨he, -⟩ | ⟨addr, v, rfl, rfl⟩
  · exact hne he
  · exact State.not_inUse_of_memWrite h
      (hin.symm.imp (State.imageInUse_iff hrunning _).mpr (State.framebufferInUse_iff hrunning _).mpr)

/-- Settles O52: the host's turn changes only `turns`, and the event it serves only a read's record, OVR or a byte
outside the buffers. -/
theorem resultsHoldUntilCompletion : Obligations.ResultsHoldUntilCompletion := by
  unfold Obligations.ResultsHoldUntilCompletion
  intro s t h hbusy hm hreset
  rcases step_host_of_busy h hbusy hm with rfl | ⟨e, rest, he, hhandle⟩
  · simp [State.sameOperands, hbusy]
  · have hne : e ≠ .reset := fun heq => hreset (by rw [he, heq, List.head?_cons])
    have hbuffers : ∀ (n : Depth) (fast : Bool) (a : Nat), s.mem.wf → decode s.cmd = .ok (n.instr fast) →
        a < 2 ^ 32 → s.inDeclaredFramebuffer n a ∨ s.inDeclaredImage a → t.mem.read a = s.mem.read a :=
      fun _ _ _ hwf hd => State.handle_keeps_buffers (s := { s with turns := s.turns.tail, events := rest })
        hhandle hne (State.runningBlit_of hbusy hd) hwf
    rcases State.handle_of_busy hhandle hbusy hne with ⟨es, rs, rfl⟩ | rfl | ⟨m, rfl⟩
    · exact ⟨hbusy, rfl, rfl, by simp [State.sameOperands], rfl, .inl rfl, hbuffers⟩
    · exact ⟨hbusy, rfl, rfl, by simp [State.sameOperands], rfl, .inr rfl, hbuffers⟩
    · exact ⟨hbusy, rfl, rfl, by simp [State.sameOperands], rfl, .inl rfl, hbuffers⟩

end Sys2Proof.Machine
end

section
/-! The SWAR form of XPOSE8 (41_primitives.md section 2; G1 of 93_implementation_defined.md): three exchanges of bits at
a fixed distance, each a permutation of the bits. -/

namespace Sys2Proof.Machine

/-- One masked XOR-shift of the sequence: each bit that the mask names is exchanged with the bit `d` above it. -/
def exchangeBits (d : Nat) (mask x : BitVec 64) : BitVec 64 :=
  let t := (x ^^^ (x >>> d)) &&& mask
  x ^^^ t ^^^ (t <<< d)

/-- Where bit `i` of an exchange comes from. -/
def exchangeIndex (d : Nat) (mask : BitVec 64) (i : Nat) : Nat :=
  if mask.getLsbD i then i + d else if d ≤ i ∧ mask.getLsbD (i - d) then i - d else i

/-- Both bits of a pair change by the pair's XOR, so they change places; no pair may meet another. -/
theorem getLsbD_exchangeBits {d : Nat} {mask : BitVec 64}
    (hpairs : ∀ i, i < 64 → d ≤ i → mask.getLsbD i = true → mask.getLsbD (i - d) = false) (x : BitVec 64) {i : Nat}
    (hi : i < 64) : (exchangeBits d mask x).getLsbD i = x.getLsbD (exchangeIndex d mask i) := by
  simp only [exchangeBits, BitVec.getLsbD_xor, BitVec.getLsbD_and, BitVec.getLsbD_ushiftRight,
    BitVec.getLsbD_shiftLeft, decide_eq_true hi, Bool.true_and, exchangeIndex]
  by_cases hd : d ≤ i
  · have hback : d + (i - d) = i := by omega
    rw [decide_eq_false (Nat.not_lt.mpr hd), hback]
    cases hlow : mask.getLsbD i with
    | true => simp [hpairs i hi hd hlow, Nat.add_comm]
    | false => cases hhigh : mask.getLsbD (i - d) <;> simp [hd, Bool.xor_comm (x.getLsbD (i - d))]
  · cases hlow : mask.getLsbD i <;> simp [hd, Nat.add_comm, Nat.not_le.mp hd]

/-- Settles O22: the exchanges swap the row's and the column's low, middle and high bit in the index `8 * r + c`. -/
theorem swarSequenceTransposes : Obligations.SwarSequenceTransposes := by
  unfold Obligations.SwarSequenceTransposes
  intro x
  change exchangeBits 28 0x00000000F0F0F0F0#64 (exchangeBits 14 0x0000CCCC0000CCCC#64
    (exchangeBits 7 0x00AA00AA00AA00AA#64 x)) = xpose8Word x
  have hindex : ∀ i, i < 64 → exchangeIndex 28 0x00000000F0F0F0F0#64 i < 64 ∧
      exchangeIndex 14 0x0000CCCC0000CCCC#64 (exchangeIndex 28 0x00000000F0F0F0F0#64 i) < 64 ∧
      exchangeIndex 7 0x00AA00AA00AA00AA#64 (exchangeIndex 14 0x0000CCCC0000CCCC#64
        (exchangeIndex 28 0x00000000F0F0F0F0#64 i)) = 8 * (i % 8) + i / 8 := by decide
  apply BitVec.eq_of_getLsbD_eq
  intro i hi
  obtain ⟨hhigh, hmiddle, htranspose⟩ := hindex i hi
  have hxpose := getLsbD_xpose8Word x (r := i % 8) (c := i / 8) (by omega) (by omega)
  rw [Nat.div_add_mod] at hxpose
  rw [getLsbD_exchangeBits (by decide) _ hi, getLsbD_exchangeBits (by decide) _ hhigh,
    getLsbD_exchangeBits (by decide) _ hmiddle, htranspose, hxpose]

end Sys2Proof.Machine
end

section
/-! The bounds of a BLIT's values (R39, R40, R65; 40_blit_common.md section 1). -/

namespace Sys2Proof.Machine

theorem State.blit_nw_le (s : State) (n : Depth) : (s.blit n).nw ≤ 65535 := by
  have hlw := s.dispDim.lw.isLt
  have hlh := s.dispDim.lh.isLt
  rw [State.blit_nw, State.nativeWidth]
  split <;> omega

theorem State.blit_nh_le (s : State) (n : Depth) : (s.blit n).nh ≤ 65535 := by
  have hlw := s.dispDim.lw.isLt
  have hlh := s.dispDim.lh.isLt
  rw [State.blit_nh, State.nativeHeight]
  split <;> omega

theorem State.blit_sw_le (s : State) (n : Depth) : (s.blit n).sw ≤ 65535 := by
  rw [State.blit_sw]
  exact Nat.le_of_lt_succ (le16_lt _ _ _)

theorem State.blit_sh_le (s : State) (n : Depth) : (s.blit n).sh ≤ 65535 := by
  rw [State.blit_sh]
  exact Nat.le_of_lt_succ (le16_lt _ _ _)

theorem ceilDiv_eight_le {a : Nat} (h : a ≤ 65535) : ceilDiv a 8 ≤ 8192 := by
  unfold ceilDiv
  omega

theorem Blit.dstPitch_le {b : Blit} (h : b.nw ≤ 65535) : b.dstPitch ≤ 16383 := by
  have hceil := ceilDiv_eight_le h
  unfold Blit.dstPitch
  split <;> omega

theorem Depth.expSize_one_le {sw sh : Nat} (hsw : sw ≤ 65535) (hsh : sh ≤ 65535) :
    Depth.one.expSize sw sh ≤ 536862720 :=
  Nat.mul_le_mul hsh (ceilDiv_eight_le hsw)

theorem Depth.expSize_two_le {sw sh : Nat} (hsw : sw ≤ 65535) (hsh : sh ≤ 65535) :
    Depth.two.expSize sw sh ≤ 1073725440 :=
  Nat.mul_le_mul (Nat.mul_le_mul_left 2 hsw) (ceilDiv_eight_le hsh)

/-- Settles O31: the registers and header fields have 16 bits, and the copy region lies in the native rectangle. -/
theorem blitValuesFitTheirWidths : Obligations.BlitValuesFitTheirWidths := by
  unfold Obligations.BlitValuesFitTheirWidths
  intro s n b
  have hsw : b.sw ≤ 65535 := s.blit_sw_le n
  have hsh : b.sh ≤ 65535 := s.blit_sh_le n
  have hnw : b.nw ≤ 65535 := s.blit_nw_le n
  have hnh : b.nh ≤ 65535 := s.blit_nh_le n
  have hpitch := Blit.dstPitch_le hnw
  refine ⟨hsw, hsh, Nat.le_of_lt_succ s.dispDim.lw.isLt, Nat.le_of_lt_succ s.dispDim.lh.isLt, hnw, hnh,
    Nat.le_trans (ceilDiv_eight_le hsw) (by decide), hpitch, Depth.expSize_one_le hsw hsh,
    Depth.expSize_two_le hsw hsh, Nat.mul_le_mul hpitch hnh, fun x y hx hy => ?_⟩
  have hlw := (Nat.lt_min.mp hx).2
  have hlh := (Nat.lt_min.mp hy).2
  rcases b.native_cases with ⟨hr, hw, hh, -⟩ | ⟨hr, hw, hh, -⟩ | ⟨hr, hw, hh, -⟩ | ⟨hr, hw, hh, -⟩ <;>
    simp only [hr, hw, hh] <;> omega

end Sys2Proof.Machine
end

section
/-! The same image at two rotations, and the same image twice (40_blit_common.md section 7). -/

namespace Sys2Proof.Machine

/-! ## Two rotations -/

/-- After a ready BLIT1 the framebuffer shows the source; the other bits are 0 or as they were. -/
theorem State.shows1_blitMemory {s : State} (hm : s.mem.wf) (h : s.blitReady .one) :
    (s.blit .one).Shows1 s.sourceBit
      (fun o j => if (s.blit .one).isFullscreen = true ∨ (s.blit .one).covers = false then false
        else (s.mem.readAt s.fbAddr o).getLsbD j)
      (s.blitMemory .one) := by
  rw [State.blitMemory_eq]
  exact (Depth.shows1_blitMemory rfl hm (Nat.le_of_lt (s.blit_fbLen_lt .one)) h.apart).congr
    (fun x y _ _ => s.blit_srcPix1 .one x y) fun _ _ _ => rfl

/-- Settles O38: read back through its own transform, each framebuffer shows the one image. -/
theorem rotationsAgree : Obligations.RotationsAgree := by
  unfold Obligations.RotationsAgree
  intro s n r fast fast' s' hm hready hready'
  refine ⟨_, _, exec_blit_of_ready hready fast, exec_blit_of_ready hready' fast', fun x y hx hy => ?_⟩
  cases n with
  | one =>
    have hfirst := (State.shows1_blitMemory hm hready).pixel x y hx hy
    have hsecond := (State.shows1_blitMemory (s := s') hm hready').pixel x y hx hy
    exact hfirst.trans hsecond.symm
  | two =>
    have hfirst := (State.shows2_blitMemory hm hready).pixel x y hx hy
    have hsecond := (State.shows2_blitMemory (s := s') hm hready').pixel x y hx hy
    exact hfirst.trans hsecond.symm

/-! ## The same image twice -/

section
variable {b : Blit} {m : Memory}

/-- The second BLIT1 finds the pixels there, and every other bit already cleared or left as it was. -/
theorem Depth.readAt_blitMemory_one_twice (hd : b.depth = .one) (hm : m.wf) (hlen : b.fbLen ≤ 2 ^ 32)
    (hapart : b.Apart) {o : Nat} (ho : o < b.fbLen) :
    (Depth.one.blitMemory b (Depth.one.blitMemory b m)).readAt b.fb o = (Depth.one.blitMemory b m).readAt b.fb o := by
  have hkeeps := Depth.keeps_blitMemory hd nofun
  have hfirst := Depth.shows1_blitMemory hd hm hlen hapart
  have hsecond := Depth.shows1_blitMemory hd (hkeeps.wf hm) hlen hapart
  apply BitVec.eq_of_getLsbD_eq
  intro j hj
  by_cases hun : b.Uncovered1 o j
  · rw [hsecond.other o j ho hj hun]
    split
    · next hclear => rw [hfirst.other o j ho hj hun, if_pos hclear]
    · rfl
  · simp only [Blit.Uncovered1, not_forall, not_not] at hun
    obtain ⟨x, y, hx, hy, rfl, rfl⟩ := hun
    have hsource := Blit.srcPix1_of_agreeOn hd hapart (hkeeps.frame hm) (Nat.lt_min.mp hx).1 (Nat.lt_min.mp hy).1
    exact (hsecond.pixel x y hx hy).trans (hsource.trans (hfirst.pixel x y hx hy).symm)

/-- Both framebuffers show the one image on white. -/
theorem Depth.readAt_blitMemory_two_twice (hd : b.depth = .two) (h4 : b.nw % 4 = 0) (hm : m.wf)
    (hlen : b.fbLen ≤ 2 ^ 32) (hapart : b.Apart) {o : Nat} (ho : o < b.fbLen) :
    (Depth.two.blitMemory b (Depth.two.blitMemory b m)).readAt b.fb o = (Depth.two.blitMemory b m).readAt b.fb o := by
  have hkeeps := Depth.keeps_blitMemory hd fun _ => h4
  have hsecond := (Depth.shows2_blitMemory hd h4 (hkeeps.wf hm) hlen hapart).congr
    fun _ _ => Blit.nativeOfSrc2_of_agreeOn hd hapart (hkeeps.frame hm)
  exact (Depth.shows2_blitMemory hd h4 hm hlen hapart).readAt_eq hsecond ho

/-- A BLIT repeated changes no byte: none outside its framebuffer (R45), and none in it. -/
theorem Depth.read_blitMemory_twice {n : Depth} (hd : b.depth = n) (h4 : n = .two → b.nw % 4 = 0) (hm : m.wf)
    (hlen : b.fbLen ≤ 2 ^ 32) (hapart : b.Apart) {a : Nat} (ha : a < 2 ^ 32) :
    (n.blitMemory b (n.blitMemory b m)).read a = (n.blitMemory b m).read a := by
  have hkeeps := Depth.keeps_blitMemory hd h4
  by_cases hin : b.inFb a
  · obtain ⟨o, ho, rfl⟩ := (inRange_iff ha).mp hin
    cases n with
    | one => exact Depth.readAt_blitMemory_one_twice hd hm hlen hapart ho
    | two => exact Depth.readAt_blitMemory_two_twice hd (h4 rfl) hm hlen hapart ho
  · exact hkeeps.frame (hkeeps.wf hm) a ha hin

end

/-- A ready BLIT leaves its header, which lies outside its framebuffer (R45, R52). -/
theorem State.blitMemory_keeps_header {s : State} {n : Depth} (hm : s.mem.wf) (h : s.blitReady n) :
    Memory.AgreeOn s.inHeader s.mem (s.blitMemory n) := fun a ha hin => by
  obtain ⟨hvalid, -, -, happart⟩ := h
  have himage : s.inImage n a := inRange_mono (Nat.le_add_right 22 _) hin
  exact State.blitMemory_frame hm hvalid a ha fun hfb =>
    Bool.false_ne_true (happart.symm.trans (rangesMeet_iff.mpr ⟨a, ha, himage, hfb⟩))

section
variable {s : State} {n : Depth} (hm : s.mem.wf) (h : s.blitReady n)
include hm h

/-- The same BLIT started again has the same geometry. -/
theorem State.blit_afterBlit (fast fp : Bool) (w : Word) :
    ((s.afterBlit n fast (s.blitMemory n) fp).startCommand w).blit n = s.blit n :=
  State.blit_congr (s := s) (State.blitMemory_keeps_header hm h) n

theorem State.blitReady_afterBlit (fast fp : Bool) (w : Word) :
    ((s.afterBlit n fast (s.blitMemory n) fp).startCommand w).blitReady n :=
  State.blitReady_congr (s := s) h (State.blitMemory_keeps_header hm h)

theorem State.read_blitMemory_twice {t : State} (hblit : t.blit n = s.blit n) (hmem : t.mem = s.blitMemory n) {a : Nat}
    (ha : a < 2 ^ 32) : (t.blitMemory n).read a = t.mem.read a := by
  obtain ⟨-, -, h4⟩ := State.geometry_of_firstError h.1
  rw [State.blitMemory_eq, hblit, hmem, State.blitMemory_eq]
  exact Depth.read_blitMemory_twice (State.blit_depth s n) h4 hm (Nat.le_of_lt (s.blit_fbLen_lt n)) h.apart ha

end

/-- Settles O39: the first BLIT leaves the header and the registers, so the second is the same BLIT on its memory. -/
theorem secondBlitChangesNoByte : Obligations.SecondBlitChangesNoByte := by
  unfold Obligations.SecondBlitChangesNoByte
  intro s t n fast fast' hm hready ht
  obtain rfl := Host.Outcome.next.inj ((exec_blit_of_ready hready fast).symm.trans ht)
  have hready' := State.blitReady_afterBlit hm hready fast (n.takesFastPath (s.blit n)) (encode (n.instr fast'))
  have hblit := State.blit_afterBlit hm hready fast (n.takesFastPath (s.blit n)) (encode (n.instr fast'))
  exact ⟨_, exec_blit_of_ready hready' fast', fun _ ha => State.read_blitMemory_twice hm hready hblit rfl ha⟩

end Sys2Proof.Machine
end

section
/-! The first command after reset (70_reset_and_hazards.md section 2). -/

namespace Sys2Proof.Machine

/-- A command word that has just been written runs in the next step (R26; assumption 7). -/
theorem step_withFetchWord {s : State} (hv : s.validInstance) (i : Instr) :
    step (s.withFetchWord 32 (encode i).toNat) = exec i (s.startCommand (encode i)) := by
  have hword : BitVec.ofNat 32 ((encode i).toNat % 2 ^ 32) = encode i := by
    rw [Nat.mod_eq_of_lt (encode i).isLt, BitVec.ofNat_toNat, BitVec.setWidth_eq]
  rw [State.withFetchWord, hword]
  exact stepRunsTheDecodedCommand _ i hv rfl nofun (decode_encode i)

/-- A zero address fails the first check (R66). -/
theorem State.firstError_of_zero_addr {s : State} (h : s.srcAddr = 0 ∨ s.fbAddr = 0) (n : Depth) :
    s.firstError n = some .invalidArgument :=
  if_pos h

/-- The parameter registers are 0 after reset (R32), so the first check fails (R66). -/
theorem exec_blit_after_reset (n : Depth) (fast : Bool) (w : Word) :
    exec (n.instr fast) (State.reset.startCommand w) =
      .next ((State.reset.startCommand w).raiseError .invalidArgument) :=
  blitReportsTheFirstFailingCheck _ n fast .invalidArgument (fun h => absurd rfl h.1)
    (State.firstError_of_zero_addr (.inl rfl) n)

/-- Settles O48: each command is the next to run, on registers that are 0. -/
theorem firstCommandsAfterReset : Obligations.FirstCommandsAfterReset := by
  unfold Obligations.FirstCommandsAfterReset
  have hv : State.reset.validInstance := by decide
  refine ⟨fun n fast => ⟨_, (step_withFetchWord hv _).trans (exec_blit_after_reset n fast _), rfl⟩,
    ⟨_, (step_withFetchWord hv .mask1).trans (exec_mask1_of_le (Nat.zero_le 8)), ?_, rfl⟩,
    ⟨_, (step_withFetchWord hv .mask2).trans (exec_mask2_of_le (Nat.zero_le 4)), ?_, rfl⟩⟩
  · decide
  · decide

end Sys2Proof.Machine
end
